-- ==== Sys2Proof/Word.lean ====
section
/-! DEFINITION. The word types of the block (10_state.md R20, R33; 20_memory.md R61, R72). -/

namespace Sys2Proof

/-- One byte of an exchange, of a command frame or of emulated RAM. -/
abbrev Byte := BitVec 8

/-- `XLEN` = 32 bits: general registers, `PC`, `CPSR` and the SPSRs (R7, R20). -/
abbrev Word := BitVec 32

/-- 64 bits: `CLOCK` (R33) and the divisor's data registers (R36). -/
abbrev DWord := BitVec 64

end Sys2Proof
end

