-- ==== Sys2Proof/Syntax.lean ====
section
/-! DEFINITION. The port operations of the block as syntax: one constructor of `Instr` per row of
spec/opcode_table.json, with the operand types the rules of 10_state.md and 30_encoding.md name. -/

namespace Sys2Proof

/-- The seven modes (30_encoding.md R90). -/
inductive Mode where
  | usr | fiq | irq | svc | abt | und | sys
  deriving DecidableEq, Repr, Inhabited

/-- The five modes that own a saved program status register (10_state.md R29). -/
inductive ExcMode where
  | fiq | svc | abt | irq | und
  deriving DecidableEq, Repr, Inhabited

/-- The 30 physical general registers of 10_state.md R20 other than `PC`, in R20's order. -/
inductive Gpr where
  | r0 | r1 | r2 | r3 | r4 | r5 | r6 | r7
  | r8usr | r9usr | r10usr | r11usr | r12usr
  | r8fiq | r9fiq | r10fiq | r11fiq | r12fiq
  | r13usr | r14usr
  | r13fiq | r14fiq | r13svc | r14svc | r13abt | r14abt | r13irq | r14irq | r13und | r14und
  deriving DecidableEq, Repr, Inhabited

/-- The 31 physical register names of 10_state.md R20: the general registers and the one `PC` (R22). -/
inductive PhysReg where
  | gpr (g : Gpr)
  | pc
  deriving DecidableEq, Repr, Inhabited

/-- The three lines (10_state.md R31). -/
inductive Line where
  | fiq | irq | halt
  deriving DecidableEq, Repr, Inhabited

/-- The eight exception kinds, in the order that gives their ordinals (30_encoding.md R93). -/
inductive Kind where
  | reset | undefined | softwareInterrupt | prefetchAbort | dataAbort | addressOverflow | irq | fiq
  deriving DecidableEq, Repr, Inhabited

/-- The name by which the environment refers to an HLE hook. A hook's behaviour is the parameter
`HLE_HOOK` (R7), which State cannot hold as a function: it holds this name. R119 and R137 say only "hook", and
bound neither the names nor their number: that a name is a 32-bit word is the model's. DESIGN CHOICE (log 24). -/
abbrev HookId := BitVec 32

/-- The name by which the environment refers to a coprocessor (10_state.md R35). R119 and R138 give coprocessors
no name and no width: that a name is a 32-bit word is the model's. DESIGN CHOICE (log 24). -/
abbrev CoprocId := BitVec 32

/-- The five bus registers of the divisor (10_state.md R36). -/
inductive DivReg where
  | divcnt | numer | denom | result | rem
  deriving DecidableEq, Repr, Inhabited

/-- The two registers OPC 0x33 writes (30_encoding.md R119). -/
inductive ResultReg where
  | result | rem
  deriving DecidableEq, Repr, Inhabited

/-- The four registers OPC 0x35 reads (30_encoding.md R119). -/
inductive DataReg where
  | numer | denom | result | rem
  deriving DecidableEq, Repr, Inhabited

/-- The access sizes of the bus seam: 1, 2, 4 and 8 bytes (20_memory.md R63). -/
inductive AccessSize where
  | b1 | b2 | b4 | b8
  deriving DecidableEq, Repr, Inhabited

/-- A bus access to a divisor register: the bank, an integer as R61 says; the displacement of the access's
first byte from the register's own offset; and the size. Offsets in a bank have no width in R61: that they are
32-bit words, and the displacement one modulo 2^32, is the model's. The lane mask `L` of the opcode table is
computed from the access by R64. DESIGN CHOICE (log 8). -/
structure BusAccess where
  bank : Int
  disp : BitVec 32
  size : AccessSize
  deriving DecidableEq, Repr, Inhabited

/-- The four channels on which an environment agent hands the block an operation: a port command
(R119), a byte the SPI master sends (R113), an ARM or a Thumb instruction the executor raises (R97). -/
inductive Channel where
  | port | tsc | arm | thumb
  deriving DecidableEq, Repr, Inhabited

/-- One operation on the block: one constructor per row of spec/opcode_table.json. -/
inductive Instr where
  -- 40_cpu_port.md
  | readReg (i : BitVec 4)
  | writeReg (i : BitVec 4) (v : Word)
  | readCpsr
  | writeCpsr (v : Word)
  | readPhys (r : PhysReg)
  | writePhys (r : PhysReg) (v : Word)
  | regSpsr
  | writeSpsr (v : Word)
  | setSwiHle (n : Int) (hook : Option HookId)
  | setCoprocessor (c : Option CoprocId)
  | setLine (line : Line) (asserting : Bool)
  | advanceClock (n : DWord)
  | readClock
  -- 60_exceptions.md and 70_reset_and_hazards.md
  | dispatchReset
  | dispatchUndefined
  | dispatchSoftwareInterrupt (imm8 : Byte)
  | dispatchPrefetchAbort
  | dispatchDataAbort
  | dispatchAddressOverflow
  | dispatchIrq
  | dispatchFiq
  | dispatchPoint
  | restoreCpsrFromSpsr
  | reset
  -- 41_divisor.md; `v` is the access's data, its byte j for the access's byte j (R64)
  | busWriteDivcnt (acc : BusAccess) (v : DWord)
  | busWriteDivNumer (acc : BusAccess) (v : DWord)
  | busWriteDivDenom (acc : BusAccess) (v : DWord)
  | busWriteDivResult (reg : ResultReg) (acc : BusAccess) (v : DWord)
  | busReadDivcnt (acc : BusAccess)
  | busReadDivData (reg : DataReg) (acc : BusAccess)
  -- 42_touchscreen.md
  | beginTransfer
  | exchange (m : Byte)
  | endTransfer
  | setPen (down : Bool) (x y : Int)
  -- the bytes the SPI master sends, by class (30_encoding.md R113, R114)
  | tscNonstart (ignored : BitVec 7)
  | tscCmdCh0Midscale (mode8 ref : Bool) (pd : BitVec 2)
  | tscCmdCh1Y (mode8 ref : Bool) (pd : BitVec 2)
  | tscCmdCh2Unimpl (mode8 ref : Bool) (pd : BitVec 2)
  | tscCmdCh3Unimpl (mode8 ref : Bool) (pd : BitVec 2)
  | tscCmdCh4Unimpl (mode8 ref : Bool) (pd : BitVec 2)
  | tscCmdCh5X (mode8 ref : Bool) (pd : BitVec 2)
  | tscCmdCh6Unimpl (mode8 ref : Bool) (pd : BitVec 2)
  | tscCmdCh7Unimpl (mode8 ref : Bool) (pd : BitVec 2)
  -- the SWI instructions that reach the block (30_encoding.md R97)
  | swiArm (cond : BitVec 4) (imm24 : BitVec 24)
  | swiThumb (imm8 : Byte)
  deriving DecidableEq, Repr, Inhabited

end Sys2Proof
end

