-- ==== Sys2Proof/Machine/Params.lean ====
section
/-! DEFINITION. The implementation parameters of 00_scope.md R7. Those R7 leaves open but that are plain data
(the divisor's bank and offsets, `CAL_ADDR`) are arguments: `Params`, which State holds and no operation changes.
Those R7 gives a value are constants. `EXC_BASE` and `HLE_HOOK`, which no proof may see, are in Config.lean. -/

namespace Sys2Proof.Machine

/-- The divisor's place on the bus (R7, R61, R110): its bank, an integer, and the offset of each register, a
32-bit word. DESIGN CHOICE for the width of offsets, which R61 does not state (log 11). -/
structure DivMap where
  bank : Int
  divcnt : BitVec 32
  numer : BitVec 32
  denom : BitVec 32
  result : BitVec 32
  rem : BitVec 32
  deriving DecidableEq, Repr, Inhabited

/-- The offset of a register in its bank (R61). -/
def DivMap.offset (m : DivMap) : DivReg → BitVec 32
  | .divcnt => m.divcnt
  | .numer => m.numer
  | .denom => m.denom
  | .result => m.result
  | .rem => m.rem

/-- The width of a divisor register in bytes (R36, R110). -/
def divBytes : DivReg → Nat
  | .divcnt => 2
  | _ => 8

/-- The value register initialisation seeds, past the mask (R68): the `reset` token's, or 0 without one. -/
def initValue {w : Nat} (reset : Option (BitVec w)) : BitVec w := reset.getD 0

/-- `ROMASK` (R69): the complement of the `rwmask` token, or 0 without one. -/
def romaskOf {w : Nat} (rwmask : Option (BitVec w)) : BitVec w :=
  match rwmask with
  | some m => ~~~m
  | none => 0

/-- `ROMASK` of `DIVCNT`, 0xFFFC in R110: the MODE bits are writable. -/
def divcntRomask : BitVec 16 := romaskOf (some 0x0003)

/-- `ROMASK` of the 64-bit divisor registers, as R110 lists them: no mask on the inputs, all ones on the
results. -/
def dataRomask : DivReg → DWord
  | .result => romaskOf (some 0)
  | .rem => romaskOf (some 0)
  | _ => romaskOf none

/-- `DIVCNT_DIV0_BIT` (R7, R111). -/
def divcntDiv0Bit : Nat := 14

/-- `DIVCNT_BUSY_BIT` (R7, R111). -/
def divcntBusyBit : Nat := 15

/-- `DIV0_RESULT32`, the document's 36-bit literal (R7, R177; 90_conflicts.md C7). -/
def div0Result32 : DWord := 0x0000000FFFFFFFFF

/-- `TSC_MIDSCALE` (R7, R218, R219). -/
def tscMidscale : BitVec 12 := 0x800

/-- The cycles of an exception entry (R268) and of the HLE dispatch overhead (R264). -/
def entryCycles : DWord := 3

/-- The first byte of a register and the one after its last, in its bank (R61). -/
def DivMap.start (m : DivMap) (r : DivReg) : Nat := (m.offset r).toNat
def DivMap.stop (m : DivMap) (r : DivReg) : Nat := (m.offset r).toNat + divBytes r

/-- The divisor's registers, as the per-bank table lists them (R61, R110). -/
def divRegs : List DivReg := [.divcnt, .numer, .denom, .result, .rem]

/-- The per-bank table maps each byte offset to at most one register (R61), and no register runs past the
last 32-bit offset (log 11). -/
def DivMap.wf (m : DivMap) : Bool :=
  divRegs.all fun r =>
    decide (m.stop r ≤ 2 ^ 32) &&
      divRegs.all fun q => q == r || decide (m.stop q ≤ m.start r) || decide (m.stop r ≤ m.start q)

/-- `CAL_ADDR` (R7): the addresses of the eight calibration values. -/
structure CalAddrs where
  adcX1 : BitVec 32
  adcY1 : BitVec 32
  scrX1 : BitVec 32
  scrY1 : BitVec 32
  adcX2 : BitVec 32
  adcY2 : BitVec 32
  scrX2 : BitVec 32
  scrY2 : BitVec 32
  deriving DecidableEq, Repr, Inhabited

/-- The parameters the block takes as arguments (R7). -/
structure Params where
  div : DivMap
  cal : CalAddrs
  deriving DecidableEq, Repr, Inhabited

/-- The values R7 and R110 suggest, with the bank at its default 0 (R61). DESIGN CHOICE (log 10, log 11). -/
def Params.suggested : Params :=
  { div := { bank := 0, divcnt := 0x280, numer := 0x290, denom := 0x298, result := 0x2A0, rem := 0x2A8 }
    cal :=
      { adcX1 := 0x027FFCD8, adcY1 := 0x027FFCDA, scrX1 := 0x027FFCDC, scrY1 := 0x027FFCDD,
        adcX2 := 0x027FFCDE, adcY2 := 0x027FFCE0, scrX2 := 0x027FFCE2, scrY2 := 0x027FFCE3 } }

end Sys2Proof.Machine
end

