-- ==== Sys2Proof/Machine/Operands.lean ====
section
/-! DEFINITION. Every operand form: mode codes, the visible-register view, the names of physical
registers, exception-kind tables, bus accesses and their lanes, and the fields of a touchscreen
command byte (10_state.md R21; 20_memory.md R61-R64; 30_encoding.md R90-R95, R113). -/

namespace Sys2Proof.Machine

/-! ## Modes (R90) -/

/-- The 5-bit code of a mode (R90). -/
def modeCode : Mode → BitVec 5
  | .usr => 0x10
  | .fiq => 0x11
  | .irq => 0x12
  | .svc => 0x13
  | .abt => 0x17
  | .und => 0x1B
  | .sys => 0x1F

/-- The mode a 5-bit code stands for; the other 25 codes are invalid (R90, R91). -/
def modeOfCode (c : BitVec 5) : Option Mode :=
  if c = 0x10 then some .usr
  else if c = 0x11 then some .fiq
  else if c = 0x12 then some .irq
  else if c = 0x13 then some .svc
  else if c = 0x17 then some .abt
  else if c = 0x1B then some .und
  else if c = 0x1F then some .sys
  else none

/-- The SPSR a mode owns; User and System own none (R29, R90). -/
def spsrOf : Mode → Option ExcMode
  | .usr => none
  | .sys => none
  | .fiq => some .fiq
  | .svc => some .svc
  | .abt => some .abt
  | .irq => some .irq
  | .und => some .und

/-- The mode of an SPSR's owner. -/
def modeOfExc : ExcMode → Mode
  | .fiq => .fiq
  | .svc => .svc
  | .abt => .abt
  | .irq => .irq
  | .und => .und

/-! ## The visible registers (R21) -/

/-- `r14` of an exception mode (R20), where entry saves the return address (R265). -/
def r14Of : ExcMode → Gpr
  | .fiq => .r14fiq
  | .svc => .r14svc
  | .abt => .r14abt
  | .irq => .r14irq
  | .und => .r14und

/-- Row 13 of R21's table. -/
def view13 : Mode → Gpr
  | .usr => .r13usr
  | .sys => .r13usr
  | .fiq => .r13fiq
  | .svc => .r13svc
  | .abt => .r13abt
  | .irq => .r13irq
  | .und => .r13und

/-- Row 14 of R21's table. -/
def view14 : Mode → Gpr
  | .usr => .r14usr
  | .sys => .r14usr
  | .fiq => .r14fiq
  | .svc => .r14svc
  | .abt => .r14abt
  | .irq => .r14irq
  | .und => .r14und

/-- Rows 8 to 12 of R21's table: the FIQ bank in FIQ mode, the User bank in every other. -/
def view8to12 (m : Mode) (usr fiq : Gpr) : Gpr :=
  match m with
  | .fiq => fiq
  | .usr => usr
  | .sys => usr
  | .svc => usr
  | .abt => usr
  | .irq => usr
  | .und => usr

/-- `view(mode, i)`: the physical register behind visible register `i` (R21). -/
def view (m : Mode) (i : BitVec 4) : PhysReg :=
  match i.toNat with
  | 0 => .gpr .r0
  | 1 => .gpr .r1
  | 2 => .gpr .r2
  | 3 => .gpr .r3
  | 4 => .gpr .r4
  | 5 => .gpr .r5
  | 6 => .gpr .r6
  | 7 => .gpr .r7
  | 8 => .gpr (view8to12 m .r8usr .r8fiq)
  | 9 => .gpr (view8to12 m .r9usr .r9fiq)
  | 10 => .gpr (view8to12 m .r10usr .r10fiq)
  | 11 => .gpr (view8to12 m .r11usr .r11fiq)
  | 12 => .gpr (view8to12 m .r12usr .r12fiq)
  | 13 => .gpr (view13 m)
  | 14 => .gpr (view14 m)
  | _ => .pc

/-- The 31 physical register names in R20's order: a name's place in it is its operand code (log 5). -/
def physRegs : List PhysReg :=
  [.gpr .r0, .gpr .r1, .gpr .r2, .gpr .r3, .gpr .r4, .gpr .r5, .gpr .r6, .gpr .r7,
   .gpr .r8usr, .gpr .r9usr, .gpr .r10usr, .gpr .r11usr, .gpr .r12usr,
   .gpr .r8fiq, .gpr .r9fiq, .gpr .r10fiq, .gpr .r11fiq, .gpr .r12fiq,
   .gpr .r13usr, .gpr .r14usr, .gpr .r13fiq, .gpr .r14fiq, .gpr .r13svc, .gpr .r14svc,
   .gpr .r13abt, .gpr .r14abt, .gpr .r13irq, .gpr .r14irq, .gpr .r13und, .gpr .r14und, .pc]

/-! ## Exception kinds (R93-R95) -/

/-- The ordinal of a kind (R93). -/
def kindOrdinal : Kind → Nat
  | .reset => 0
  | .undefined => 1
  | .softwareInterrupt => 2
  | .prefetchAbort => 3
  | .dataAbort => 4
  | .addressOverflow => 5
  | .irq => 6
  | .fiq => 7

/-- The target mode of a kind (R94). -/
def kindMode : Kind → ExcMode
  | .reset => .svc
  | .undefined => .und
  | .softwareInterrupt => .svc
  | .prefetchAbort => .abt
  | .dataAbort => .abt
  | .addressOverflow => .svc
  | .irq => .irq
  | .fiq => .fiq

/-- Whether entry also forces the fast-interrupt mask (R94): Reset and FIQ only. -/
def kindMasksFiq : Kind → Bool
  | .reset => true
  | .fiq => true
  | _ => false

/-- `OFFSET[kind][T]`, with `thumb` the T bit (R95). -/
def kindOffset (k : Kind) (thumb : Bool) : Word :=
  match k with
  | .reset => 0
  | .undefined => if thumb then 2 else 4
  | .softwareInterrupt => if thumb then 2 else 4
  | .prefetchAbort => 4
  | .dataAbort => 8
  | .addressOverflow => 4
  | .irq => 4
  | .fiq => 4

/-! ## Bus accesses (R61-R64) -/

/-- The number of bytes of an access (R63). -/
def sizeBytes : AccessSize → Nat
  | .b1 => 1
  | .b2 => 2
  | .b4 => 4
  | .b8 => 8

/-- The offset `a` in the bank of the access's first byte, for an access stated relative to `r`. -/
def accessOffset (m : DivMap) (r : DivReg) (acc : BusAccess) : BitVec 32 := m.offset r + acc.disp

/-- Whether the `n` bytes at offset `a` all lie inside register `r` (R62). -/
def insideReg (m : DivMap) (a n : Nat) (r : DivReg) : Bool :=
  decide (m.start r ≤ a) && decide (a + n ≤ m.stop r)

/-- The register an access of `n` bytes at offset `a` of bank `b` lies inside, if one does (R61, R62). -/
def busResolve (m : DivMap) (b : Int) (a : BitVec 32) (n : Nat) : Option DivReg :=
  if b = m.bank then divRegs.find? (insideReg m a.toNat n) else none

/-- Natural alignment: `a mod n = 0` (R63). -/
def busAligned (a : BitVec 32) (n : Nat) : Bool := a.toNat % n == 0

/-- The first lane `k = a - offset` of an access that lies inside its register (R64): the displacement. -/
def firstLane (acc : BusAccess) : Nat := acc.disp.toNat

/-- Ones in the access's own bytes, right-aligned. -/
def dataMask (n : Nat) : DWord := BitVec.ofNat 64 (2 ^ (8 * n) - 1)

/-- The lane mask `L`: ones in the bytes of the register that the access touches (R64, R65). -/
def laneMask (acc : BusAccess) : DWord := dataMask (sizeBytes acc.size) <<< (8 * firstLane acc)

/-- The access's data placed in its lanes (R64, R65). -/
def laneData (acc : BusAccess) (v : DWord) : DWord := v <<< (8 * firstLane acc)

/-- Lanes `L` of `val`, shifted down to bit 0 (R67). -/
def laneRead (acc : BusAccess) (val : DWord) : DWord :=
  (val >>> (8 * firstLane acc)) &&& dataMask (sizeBytes acc.size)

/-- The masked bus write of R65, at any width: `ROMASK` bits and untouched lanes keep their value. -/
def busMerge {w : Nat} (old romask lanes v : BitVec w) : BitVec w :=
  (old &&& (romask ||| ~~~lanes)) ||| (v &&& ~~~romask &&& lanes)

/-- The bus register OPC 0x33's operand names. -/
def resultDivReg : ResultReg → DivReg
  | .result => .result
  | .rem => .rem

/-- The bus register OPC 0x35's operand names. -/
def dataDivReg : DataReg → DivReg
  | .numer => .numer
  | .denom => .denom
  | .result => .result
  | .rem => .rem

/-! ## The touchscreen command byte (R113) -/

/-- The start bit S. -/
def cmdStart (m : Byte) : Bool := m.getLsbD 7

/-- The channel select A. -/
def cmdChannel (m : Byte) : BitVec 3 := m.extractLsb' 4 3

/-- The MODE8 bit: 1 = 8-bit conversion. -/
def cmdMode8 (m : Byte) : Bool := m.getLsbD 3

/-- A command byte put together from its fields (R113). -/
def cmdByte (chan : BitVec 3) (mode8 ref : Bool) (pd : BitVec 2) : Byte :=
  BitVec.ofBool true ++ chan ++ BitVec.ofBool mode8 ++ BitVec.ofBool ref ++ pd

/-- A byte whose start bit is 0 (R113, R213). -/
def nonstartByte (ignored : BitVec 7) : Byte := BitVec.ofBool false ++ ignored

/-- `imm8` of an ARM `SWI`: bits 23:16 (R97). -/
def armImm8 (imm24 : BitVec 24) : Byte := imm24.extractLsb' 16 8

end Sys2Proof.Machine
end

