-- ==== Sys2Proof/WellFormed.lean ====
section
/-! DEFINITION. Which terms of `Instr` a command frame can carry: the checks that the operand types do not
already make (log 6). -/

namespace Sys2Proof

/-- An integer operand a 64-bit two's-complement frame field holds (log 6). -/
def intFits (n : Int) : Bool := decide (-2 ^ 63 ≤ n) && decide (n < 2 ^ 63)

/-- Well-formedness of an operation. -/
def Instr.wellFormed : Instr → Bool
  | .setSwiHle n _ => intFits n
  | .setPen _ x y => intFits x && intFits y
  | .busWriteDivcnt acc _ => intFits acc.bank
  | .busWriteDivNumer acc _ => intFits acc.bank
  | .busWriteDivDenom acc _ => intFits acc.bank
  | .busWriteDivResult _ acc _ => intFits acc.bank
  | .busReadDivcnt acc => intFits acc.bank
  | .busReadDivData _ acc => intFits acc.bank
  | .readReg _ => true
  | .writeReg _ _ => true
  | .readCpsr => true
  | .writeCpsr _ => true
  | .readPhys _ => true
  | .writePhys _ _ => true
  | .regSpsr => true
  | .writeSpsr _ => true
  | .setCoprocessor _ => true
  | .setLine _ _ => true
  | .advanceClock _ => true
  | .readClock => true
  | .dispatchReset => true
  | .dispatchUndefined => true
  | .dispatchSoftwareInterrupt _ => true
  | .dispatchPrefetchAbort => true
  | .dispatchDataAbort => true
  | .dispatchAddressOverflow => true
  | .dispatchIrq => true
  | .dispatchFiq => true
  | .dispatchPoint => true
  | .restoreCpsrFromSpsr => true
  | .reset => true
  | .beginTransfer => true
  | .exchange _ => true
  | .endTransfer => true
  | .tscNonstart _ => true
  | .tscCmdCh0Midscale _ _ _ => true
  | .tscCmdCh1Y _ _ _ => true
  | .tscCmdCh2Unimpl _ _ _ => true
  | .tscCmdCh3Unimpl _ _ _ => true
  | .tscCmdCh4Unimpl _ _ _ => true
  | .tscCmdCh5X _ _ _ => true
  | .tscCmdCh6Unimpl _ _ _ => true
  | .tscCmdCh7Unimpl _ _ _ => true
  | .swiArm _ _ => true
  | .swiThumb _ => true

end Sys2Proof
end

