-- ==== Sys2Proof/Decode.lean ====
section
/-! DEFINITION. The decoder of command frames, total on any bytes and rejecting by name, and after it the
encoder. The command codes are 30_encoding.md R119's; the touchscreen byte classes are R113's and R114's;
the SWI words are R97's. R119 gives no operand layout: operand bytes follow the code, little-endian, in the
order the operation names them. DESIGN CHOICE (log 5, log 6, log 23). -/

namespace Sys2Proof

/-- Why a frame is no operation. Each ends the run in a refusal (R6), which is safe: nothing is proved of a
run that holds one. -/
inductive DecodeError where
  /-- The command code is not listed in R119. -/
  | unlistedOpcode (opc : Byte)
  /-- The frame ends before the operands do, or holds no byte. -/
  | truncated
  /-- A visible-register operand above 15 (R130). -/
  | badRegister (b : Byte)
  /-- A physical-register operand that names none of R20's 31 registers (R134). -/
  | badName (b : Byte)
  /-- A bool or option tag that is neither 0 nor 1. -/
  | badFlag (b : Byte)
  /-- A line operand that is none of R99's three numbers. -/
  | badLine (b : Byte)
  /-- An access-size operand that is none of the four sizes (R63). -/
  | badSize (b : Byte)
  /-- A bus-register operand that names no register of the operation (R119). -/
  | badBusRegister (b : Byte)
  /-- A byte after the operands that is not zero (log 23). -/
  | trailingBytes
  /-- A word on an instruction channel that is not a SWI (R97). -/
  | notSwi
  deriving DecidableEq, Repr, Inhabited

/-- What a reader of operand bytes answers: a value and the bytes after it. -/
abbrev Read (α : Type) := Except DecodeError (α × List Byte)

/-! ## Bytes -/

/-- Byte `k` of a value, little-endian (R64). -/
def byteAt {w : Nat} (v : BitVec w) (k : Nat) : Byte := v.extractLsb' (8 * k) 8

/-- The two bytes of a 16-bit value, little-endian. -/
def le16 (v : BitVec 16) : List Byte := [byteAt v 0, byteAt v 1]

/-- The four bytes of a 32-bit value, little-endian. -/
def le32 (v : BitVec 32) : List Byte := [byteAt v 0, byteAt v 1, byteAt v 2, byteAt v 3]

/-- The eight bytes of a 64-bit value, little-endian. -/
def le64 (v : BitVec 64) : List Byte :=
  [byteAt v 0, byteAt v 1, byteAt v 2, byteAt v 3, byteAt v 4, byteAt v 5, byteAt v 6, byteAt v 7]

/-! ## Operand readers -/

/-- One byte. -/
def read8 : List Byte → Read Byte
  | b :: r => .ok (b, r)
  | [] => .error .truncated

/-- A 32-bit value. -/
def read32 : List Byte → Read (BitVec 32)
  | b0 :: b1 :: b2 :: b3 :: r => .ok (b3 ++ b2 ++ b1 ++ b0, r)
  | _ => .error .truncated

/-- A 64-bit value. -/
def read64 : List Byte → Read (BitVec 64)
  | b0 :: b1 :: b2 :: b3 :: b4 :: b5 :: b6 :: b7 :: r =>
      .ok (b7 ++ b6 ++ b5 ++ b4 ++ b3 ++ b2 ++ b1 ++ b0, r)
  | _ => .error .truncated

/-- An integer operand: 64 bits, two's complement (log 6). -/
def readInt (bs : List Byte) : Read Int :=
  match read64 bs with
  | .ok (v, r) => .ok (v.toInt, r)
  | .error e => .error e

/-- A visible-register number, 0 to 15 (R130). -/
def readRegNo : List Byte → Read (BitVec 4)
  | b :: r => if b.toNat < 16 then .ok (b.setWidth 4, r) else .error (.badRegister b)
  | [] => .error .truncated

/-- A physical-register name, by its place in R20's list (R134). -/
def readPhysName : List Byte → Read PhysReg
  | b :: r =>
    match Machine.physRegs[b.toNat]? with
    | some p => .ok (p, r)
    | none => .error (.badName b)
  | [] => .error .truncated

/-- A bool: 0 or 1. -/
def readBool : List Byte → Read Bool
  | b :: r =>
    if b = 0 then .ok (false, r) else if b = 1 then .ok (true, r) else .error (.badFlag b)
  | [] => .error .truncated

/-- An optional hook or coprocessor: `none`, or a 32-bit name after the tag 1. DESIGN CHOICE (log 5, log 24). -/
def readOptId (bs : List Byte) : Read (Option (BitVec 32)) :=
  match readBool bs with
  | .ok (false, r) => .ok (none, r)
  | .ok (true, r) =>
    match read32 r with
    | .ok (v, r') => .ok (some v, r')
    | .error e => .error e
  | .error e => .error e

/-- A line, by R99's numbers. -/
def readLine : List Byte → Read Line
  | b :: r =>
    if b = 0 then .ok (.fiq, r)
    else if b = 1 then .ok (.irq, r)
    else if b = 2 then .ok (.halt, r)
    else .error (.badLine b)
  | [] => .error .truncated

/-- An access size: 0, 1, 2, 3 for 1, 2, 4, 8 bytes. -/
def readSize : List Byte → Read AccessSize
  | b :: r =>
    if b = 0 then .ok (.b1, r)
    else if b = 1 then .ok (.b2, r)
    else if b = 2 then .ok (.b4, r)
    else if b = 3 then .ok (.b8, r)
    else .error (.badSize b)
  | [] => .error .truncated

/-- A bus access: displacement, bank, size. -/
def readAccess (bs : List Byte) : Read BusAccess :=
  match read32 bs with
  | .error e => .error e
  | .ok (disp, r) =>
    match readInt r with
    | .error e => .error e
    | .ok (bank, r') =>
      match readSize r' with
      | .error e => .error e
      | .ok (size, r'') => .ok ({ bank := bank, disp := disp, size := size }, r'')

/-- The register of OPC 0x33: 0 for `DIV_RESULT`, 1 for `DIVREM_RESULT`. -/
def readResultReg : List Byte → Read ResultReg
  | b :: r =>
    if b = 0 then .ok (.result, r)
    else if b = 1 then .ok (.rem, r)
    else .error (.badBusRegister b)
  | [] => .error .truncated

/-- The register of OPC 0x35: 0 to 3 in R119's order. -/
def readDataReg : List Byte → Read DataReg
  | b :: r =>
    if b = 0 then .ok (.numer, r)
    else if b = 1 then .ok (.denom, r)
    else if b = 2 then .ok (.result, r)
    else if b = 3 then .ok (.rem, r)
    else .error (.badBusRegister b)
  | [] => .error .truncated

/-- The end of a frame: only zero bytes may follow the operands (log 23). -/
def finish (r : List Byte) (i : Instr) : Except DecodeError Instr :=
  if r.all (· == 0) then .ok i else .error .trailingBytes

/-! ## The port channel (R119) -/

/-- Operations with no operand. -/
def decodePlain (opc : Byte) : Option Instr :=
  match opc.toNat with
  | 0x03 => some .readCpsr
  | 0x07 => some .regSpsr
  | 0x0D => some .readClock
  | 0x20 => some .dispatchReset
  | 0x21 => some .dispatchUndefined
  | 0x23 => some .dispatchPrefetchAbort
  | 0x24 => some .dispatchDataAbort
  | 0x25 => some .dispatchAddressOverflow
  | 0x26 => some .dispatchIrq
  | 0x27 => some .dispatchFiq
  | 0x28 => some .dispatchPoint
  | 0x29 => some .restoreCpsrFromSpsr
  | 0x2A => some .reset
  | 0x40 => some .beginTransfer
  | 0x42 => some .endTransfer
  | _ => none

/-- Operations with operands, by command code; `r` is the frame after the code. -/
def decodeOperands (opc : Byte) (r : List Byte) : Except DecodeError Instr :=
  match opc.toNat with
  | 0x01 => do
    let (i, r) ← readRegNo r
    finish r (.readReg i)
  | 0x02 => do
    let (i, r) ← readRegNo r
    let (v, r) ← read32 r
    finish r (.writeReg i v)
  | 0x04 => do
    let (v, r) ← read32 r
    finish r (.writeCpsr v)
  | 0x05 => do
    let (p, r) ← readPhysName r
    finish r (.readPhys p)
  | 0x06 => do
    let (p, r) ← readPhysName r
    let (v, r) ← read32 r
    finish r (.writePhys p v)
  | 0x08 => do
    let (v, r) ← read32 r
    finish r (.writeSpsr v)
  | 0x09 => do
    let (n, r) ← readInt r
    let (h, r) ← readOptId r
    finish r (.setSwiHle n h)
  | 0x0A => do
    let (c, r) ← readOptId r
    finish r (.setCoprocessor c)
  | 0x0B => do
    let (l, r) ← readLine r
    let (b, r) ← readBool r
    finish r (.setLine l b)
  | 0x0C => do
    let (n, r) ← read64 r
    finish r (.advanceClock n)
  | 0x22 => do
    let (b, r) ← read8 r
    finish r (.dispatchSoftwareInterrupt b)
  | 0x30 => do
    let (acc, r) ← readAccess r
    let (v, r) ← read64 r
    finish r (.busWriteDivcnt acc v)
  | 0x31 => do
    let (acc, r) ← readAccess r
    let (v, r) ← read64 r
    finish r (.busWriteDivNumer acc v)
  | 0x32 => do
    let (acc, r) ← readAccess r
    let (v, r) ← read64 r
    finish r (.busWriteDivDenom acc v)
  | 0x33 => do
    let (reg, r) ← readResultReg r
    let (acc, r) ← readAccess r
    let (v, r) ← read64 r
    finish r (.busWriteDivResult reg acc v)
  | 0x34 => do
    let (acc, r) ← readAccess r
    finish r (.busReadDivcnt acc)
  | 0x35 => do
    let (reg, r) ← readDataReg r
    let (acc, r) ← readAccess r
    finish r (.busReadDivData reg acc)
  | 0x41 => do
    let (m, r) ← read8 r
    finish r (.exchange m)
  | 0x43 => do
    let (d, r) ← readBool r
    let (x, r) ← readInt r
    let (y, r) ← readInt r
    finish r (.setPen d x y)
  | _ => .error (.unlistedOpcode opc)

/-- A port command frame: the command code, then the operands. -/
def decodePort : List Byte → Except DecodeError Instr
  | [] => .error .truncated
  | opc :: r =>
    match decodePlain opc with
    | some i => finish r i
    | none => decodeOperands opc r

/-! ## The other channels -/

/-- A byte the SPI master sends, by class (R113, R114): every byte has one. -/
def decodeTscByte (m : Byte) : Instr :=
  if Machine.cmdStart m then
    let mode8 := Machine.cmdMode8 m
    let ref := m.getLsbD 2
    let pd := m.extractLsb' 0 2
    match (Machine.cmdChannel m).toNat with
    | 0 => .tscCmdCh0Midscale mode8 ref pd
    | 1 => .tscCmdCh1Y mode8 ref pd
    | 2 => .tscCmdCh2Unimpl mode8 ref pd
    | 3 => .tscCmdCh3Unimpl mode8 ref pd
    | 4 => .tscCmdCh4Unimpl mode8 ref pd
    | 5 => .tscCmdCh5X mode8 ref pd
    | 6 => .tscCmdCh6Unimpl mode8 ref pd
    | _ => .tscCmdCh7Unimpl mode8 ref pd
  else .tscNonstart (m.extractLsb' 0 7)

/-- A frame of the SPI channel: one byte. -/
def decodeTsc : List Byte → Except DecodeError Instr
  | [] => .error .truncated
  | m :: r => finish r (decodeTscByte m)

/-- A frame of the ARM channel: one 32-bit word, `cond 1111 imm24` (R97). -/
def decodeArm (bs : List Byte) : Except DecodeError Instr :=
  match read32 bs with
  | .error e => .error e
  | .ok (w, r) =>
    if w.extractLsb' 24 4 = 0xF then finish r (.swiArm (w.extractLsb' 28 4) (w.extractLsb' 0 24))
    else .error .notSwi

/-- A frame of the Thumb channel: one 16-bit halfword, `1101 1111 imm8` (R97). -/
def decodeThumb : List Byte → Except DecodeError Instr
  | b0 :: b1 :: r => if b1 = 0xDF then finish r (.swiThumb b0) else .error .notSwi
  | _ => .error .truncated

/-- The decoder, total on any channel and bytes. -/
def decode : Channel → List Byte → Except DecodeError Instr
  | .port, bs => decodePort bs
  | .tsc, bs => decodeTsc bs
  | .arm, bs => decodeArm bs
  | .thumb, bs => decodeThumb bs

/-! ## The encoder -/

/-- A bool operand. -/
def encBool (b : Bool) : Byte := if b then 1 else 0

/-- An integer operand (log 6). -/
def encInt (n : Int) : List Byte := le64 (BitVec.ofInt 64 n)

/-- An optional name. -/
def encOptId : Option (BitVec 32) → List Byte
  | none => [0]
  | some v => 1 :: le32 v

/-- A line, by R99's numbers. -/
def encLine : Line → Byte
  | .fiq => 0
  | .irq => 1
  | .halt => 2

/-- An access size. -/
def encSize : AccessSize → Byte
  | .b1 => 0
  | .b2 => 1
  | .b4 => 2
  | .b8 => 3

/-- A physical-register name: its place in R20's list. -/
def encPhysName (p : PhysReg) : Byte := BitVec.ofNat 8 (Machine.physRegs.idxOf p)

/-- A bus access. -/
def encAccess (acc : BusAccess) : List Byte := le32 acc.disp ++ encInt acc.bank ++ [encSize acc.size]

/-- The register of OPC 0x33. -/
def encResultReg : ResultReg → Byte
  | .result => 0
  | .rem => 1

/-- The register of OPC 0x35. -/
def encDataReg : DataReg → Byte
  | .numer => 0
  | .denom => 1
  | .result => 2
  | .rem => 3

/-- The channel an operation arrives on. -/
def Instr.channel : Instr → Channel
  | .tscNonstart _ => .tsc
  | .tscCmdCh0Midscale _ _ _ => .tsc
  | .tscCmdCh1Y _ _ _ => .tsc
  | .tscCmdCh2Unimpl _ _ _ => .tsc
  | .tscCmdCh3Unimpl _ _ _ => .tsc
  | .tscCmdCh4Unimpl _ _ _ => .tsc
  | .tscCmdCh5X _ _ _ => .tsc
  | .tscCmdCh6Unimpl _ _ _ => .tsc
  | .tscCmdCh7Unimpl _ _ _ => .tsc
  | .swiArm _ _ => .arm
  | .swiThumb _ => .thumb
  | _ => .port

/-- The frame of an operation, without padding. -/
def encode : Instr → List Byte
  | .readReg i => [0x01, i.setWidth 8]
  | .writeReg i v => [0x02, i.setWidth 8] ++ le32 v
  | .readCpsr => [0x03]
  | .writeCpsr v => 0x04 :: le32 v
  | .readPhys r => [0x05, encPhysName r]
  | .writePhys r v => [0x06, encPhysName r] ++ le32 v
  | .regSpsr => [0x07]
  | .writeSpsr v => 0x08 :: le32 v
  | .setSwiHle n h => 0x09 :: (encInt n ++ encOptId h)
  | .setCoprocessor c => 0x0A :: encOptId c
  | .setLine l b => [0x0B, encLine l, encBool b]
  | .advanceClock n => 0x0C :: le64 n
  | .readClock => [0x0D]
  | .dispatchReset => [0x20]
  | .dispatchUndefined => [0x21]
  | .dispatchSoftwareInterrupt imm8 => [0x22, imm8]
  | .dispatchPrefetchAbort => [0x23]
  | .dispatchDataAbort => [0x24]
  | .dispatchAddressOverflow => [0x25]
  | .dispatchIrq => [0x26]
  | .dispatchFiq => [0x27]
  | .dispatchPoint => [0x28]
  | .restoreCpsrFromSpsr => [0x29]
  | .reset => [0x2A]
  | .busWriteDivcnt acc v => 0x30 :: (encAccess acc ++ le64 v)
  | .busWriteDivNumer acc v => 0x31 :: (encAccess acc ++ le64 v)
  | .busWriteDivDenom acc v => 0x32 :: (encAccess acc ++ le64 v)
  | .busWriteDivResult reg acc v => 0x33 :: encResultReg reg :: (encAccess acc ++ le64 v)
  | .busReadDivcnt acc => 0x34 :: encAccess acc
  | .busReadDivData reg acc => 0x35 :: encDataReg reg :: encAccess acc
  | .beginTransfer => [0x40]
  | .exchange m => [0x41, m]
  | .endTransfer => [0x42]
  | .setPen down x y => 0x43 :: encBool down :: (encInt x ++ encInt y)
  | .tscNonstart ignored => [Machine.nonstartByte ignored]
  | .tscCmdCh0Midscale mode8 ref pd => [Machine.cmdByte 0 mode8 ref pd]
  | .tscCmdCh1Y mode8 ref pd => [Machine.cmdByte 1 mode8 ref pd]
  | .tscCmdCh2Unimpl mode8 ref pd => [Machine.cmdByte 2 mode8 ref pd]
  | .tscCmdCh3Unimpl mode8 ref pd => [Machine.cmdByte 3 mode8 ref pd]
  | .tscCmdCh4Unimpl mode8 ref pd => [Machine.cmdByte 4 mode8 ref pd]
  | .tscCmdCh5X mode8 ref pd => [Machine.cmdByte 5 mode8 ref pd]
  | .tscCmdCh6Unimpl mode8 ref pd => [Machine.cmdByte 6 mode8 ref pd]
  | .tscCmdCh7Unimpl mode8 ref pd => [Machine.cmdByte 7 mode8 ref pd]
  | .swiArm cond imm24 => le32 (cond ++ (0xF : BitVec 4) ++ imm24)
  | .swiThumb imm8 => [imm8, 0xDF]

/-- The longest frame: OPC 0x33 with its register, access and data. -/
def maxFrame : Nat := 23

/-! ## The words of spec/opcode_table.json (log 7) -/

/-- Whether a command code is one of R119's. -/
def listedOpcode (opc : Byte) : Bool :=
  let n := opc.toNat
  (1 ≤ n && n ≤ 0x0D) || (0x20 ≤ n && n ≤ 0x2A) || (0x30 ≤ n && n ≤ 0x35) || (0x40 ≤ n && n ≤ 0x43)

/-- The frame a row's word is laid out as. Rows of 16 and 32 bits are the SWI words; a row of 8 bits is a
port command where R119 lists its code, with operand bytes of zeros, and else a byte of the SPI
channel. The two 8-bit spaces overlap in the table (TSC_NONSTART is every byte below 0x80). -/
def tableFrame (nbits w : Nat) : Channel × List Byte :=
  if nbits = 32 then (.arm, le32 (BitVec.ofNat 32 w))
  else if nbits = 16 then (.thumb, le16 (BitVec.ofNat 16 w))
  else if listedOpcode (BitVec.ofNat 8 w) then
    (.port, BitVec.ofNat 8 w :: List.replicate (maxFrame - 1) 0)
  else (.tsc, [BitVec.ofNat 8 w])

/-- The operation the decoder reads from a row's word. -/
def decodeTableWord (nbits w : Nat) : Option Instr :=
  match decode (tableFrame nbits w).1 (tableFrame nbits w).2 with
  | .ok i => some i
  | .error _ => none

end Sys2Proof
end

