-- ==== Sys2Proof/Machine/State.lean ====
section
/-! DEFINITION. The state of the block as plain data: the parameters of 00_scope.md R7, every piece of state
10_state.md names (R20-R40), the emulated RAM of 20_memory.md R70, the reset mark of 70_reset_and_hazards.md
R322, and three fields of the model's own (`input`, `reply`, `nextFree`). -/

namespace Sys2Proof.Machine

/-- The 30 physical general registers of R20 other than `PC`. `none` is the spec's own state "holds no
value" (R24, R40): a read of it faults `F_UNWRITTEN` (log 2). -/
structure RegFile where
  r0 : Option Word
  r1 : Option Word
  r2 : Option Word
  r3 : Option Word
  r4 : Option Word
  r5 : Option Word
  r6 : Option Word
  r7 : Option Word
  r8usr : Option Word
  r9usr : Option Word
  r10usr : Option Word
  r11usr : Option Word
  r12usr : Option Word
  r8fiq : Option Word
  r9fiq : Option Word
  r10fiq : Option Word
  r11fiq : Option Word
  r12fiq : Option Word
  r13usr : Option Word
  r14usr : Option Word
  r13fiq : Option Word
  r14fiq : Option Word
  r13svc : Option Word
  r14svc : Option Word
  r13abt : Option Word
  r14abt : Option Word
  r13irq : Option Word
  r14irq : Option Word
  r13und : Option Word
  r14und : Option Word
  deriving DecidableEq, Repr, Inhabited

/-- Every register holds the same. -/
def RegFile.filled (v : Option Word) : RegFile :=
  { r0 := v, r1 := v, r2 := v, r3 := v, r4 := v,
    r5 := v, r6 := v, r7 := v, r8usr := v, r9usr := v,
    r10usr := v, r11usr := v, r12usr := v, r8fiq := v, r9fiq := v,
    r10fiq := v, r11fiq := v, r12fiq := v, r13usr := v, r14usr := v,
    r13fiq := v, r14fiq := v, r13svc := v, r14svc := v, r13abt := v,
    r14abt := v, r13irq := v, r14irq := v, r13und := v, r14und := v }

/-- No register holds a value (R40, power-on column). -/
def RegFile.empty : RegFile := RegFile.filled none

/-- The five saved program status registers (R29); `none` is "holds no value" (R24). -/
structure SpsrFile where
  fiq : Option Word
  svc : Option Word
  abt : Option Word
  irq : Option Word
  und : Option Word
  deriving DecidableEq, Repr, Inhabited

/-- Every saved status register holds the same. -/
def SpsrFile.filled (v : Option Word) : SpsrFile := { fiq := v, svc := v, abt := v, irq := v, und := v }

/-- `LINES`, a subset of three names (R31). -/
structure Lines where
  fiq : Bool
  irq : Bool
  halt : Bool
  deriving DecidableEq, Repr, Inhabited

/-- The state of the CPU instance (R20-R35): what an HLE hook receives (R264, R307). -/
structure Cpu where
  regs : RegFile
  pc : Word
  cpsr : Word
  spsr : SpsrFile
  lines : Lines
  recheck : Bool
  clock : DWord
  hle : Vector (Option HookId) 256
  coproc : Option CoprocId
  deriving DecidableEq, Repr, Inhabited

/-- The divisor's five bus registers (R36). -/
structure Divisor where
  cnt : BitVec 16
  numer : DWord
  denom : DWord
  result : DWord
  rem : DWord
  deriving DecidableEq, Repr, Inhabited

/-- The live pen state (R38); coordinates are unbounded integers (92_eei_decisions.md D42). -/
structure Pen where
  down : Bool
  x : Int
  y : Int
  deriving DecidableEq, Repr, Inhabited

/-- The transfer state `TS` (R39): `s` is the 12-bit sample of the current conversion, `m8` its
8-bit-mode flag. -/
inductive TscState where
  | closed
  | idle
  | data1 (s : BitVec 12) (m8 : Bool)
  | data2 (s : BitVec 12) (m8 : Bool)
  | drain
  deriving DecidableEq, Repr, Inhabited

/-- Emulated RAM: (address, byte) pairs in canonical form (`Memory.wf`): addresses strictly rising and
below 2^32, no byte equal to what an unlisted address reads as (log 9). -/
abbrev Memory := List Host.Cell

/-- What an operation returned to its agent (log 17). -/
inductive Reply where
  /-- The operation returns nothing. -/
  | none
  /-- 32 bits: `ReadReg`, `ReadPhys`, `ReadCpsr`, `RegSpsr`. -/
  | word (v : Word)
  /-- 64 bits: `ReadClock`. -/
  | clock (v : DWord)
  /-- The lanes a bus read returns, shifted down to bit 0 (R67). -/
  | data (v : DWord)
  /-- The byte an exchange returns (R211). -/
  | byte (b : Byte)
  /-- `DispatchPoint` returned `Halted` (R280). -/
  | halted
  /-- `DispatchPoint` returned `Taken(kind)` (R280). -/
  | taken (k : Kind)
  /-- `DispatchPoint` returned `Run` (R280). -/
  | run
  deriving DecidableEq, Repr, Inhabited

/-- What the environment does next (R5, R74, R340): an operation, as a frame on an agent's channel, or a
write of one byte of emulated RAM by its owner (log 3, log 9). -/
inductive Input where
  | op (ch : Channel) (bytes : List Byte)
  | ram (addr : BitVec 32) (b : Byte)
  deriving DecidableEq, Repr, Inhabited

/-- The state of the block. -/
structure State where
  /-- The parameters the block takes as arguments (R7). No operation reads or writes them but the bus seam and
  the calibration reads, which read them (log 10, log 11). -/
  params : Params
  /-- The CPU instance (R20-R35). -/
  cpu : Cpu
  /-- The divisor (R36). -/
  div : Divisor
  /-- The live pen state (R38). -/
  pen : Pen
  /-- The touchscreen's transfer state (R39). -/
  ts : TscState
  /-- Emulated RAM, which the calibration reads see (R70). -/
  ram : Memory
  /-- Whether the first `Reset()` has happened (R322). -/
  wasReset : Bool
  /-- The model's own: the operations the environment will apply, next one first (log 3). -/
  input : List Input
  /-- The model's own: what the last operation returned (log 17). -/
  reply : Reply
  /-- The model's own: the counter that free values are drawn with (log 22). -/
  nextFree : Nat
  deriving DecidableEq, Repr, Inhabited

/-- The name a fault `F_UNWRITTEN(name)` carries (R24). -/
inductive RegName where
  | phys (r : PhysReg)
  | spsr (m : ExcMode)
  deriving DecidableEq, Repr, Inhabited

/-- The final faults of R6. Every one is the spec's own and is safe: nothing is proved of a run after it. -/
inductive Fault where
  /-- `F_SPSR_UNBANKED`: `RegSpsr`, `WriteSpsr` and `RestoreCpsrFromSpsr` in User or System mode (R135,
  R136, R290). Safe. -/
  | spsrUnbanked (m : Mode)
  /-- `F_BAD_MODE`: `WriteCpsr` and `RestoreCpsrFromSpsr` of an invalid mode code (R133, R290), an HLE
  hook that leaves one (R91, log 13), and the unreachable guards of R130 and R131 (log 15). Safe. -/
  | badMode (v : Word)
  /-- `F_HLE_RANGE`: `SetSwiHle` outside 0..255 (R137). Safe. -/
  | hleRange (n : Int)
  /-- `F_TSC_OVERLAP`: `BeginTransfer` with a transfer open (R210). Safe. -/
  | tscOverlap
  /-- `F_TSC_NO_TRANSFER`: an exchange or `EndTransfer` with none open (R211, R212). Safe. -/
  | tscNoTransfer
  /-- `F_BUS_UNMAPPED(b, a, n)`: a divisor access inside no register (R62). Safe. -/
  | busUnmapped (b : Int) (a : BitVec 32) (n : Nat)
  /-- `F_BUS_MISALIGNED(b, a, n)`: a divisor access not naturally aligned (R63). Safe. -/
  | busMisaligned (b : Int) (a : BitVec 32) (n : Nat)
  /-- `F_UNWRITTEN(name)`: a read of a register that holds no value (R24, R130, R134, R135, R290). Every
  register of State.reset holds one, so no run from there raises it (log 2). Safe. -/
  | unwritten (r : RegName)
  deriving DecidableEq, Repr, Inhabited

/-- The refusals of R6: an operation the spec gives no meaning to. All are safe. -/
inductive Refusal where
  /-- An arm of `exec` that has no meaning yet; no arm raises it. Safe. -/
  | notModelled (mnemonic : String)
  /-- A CPU operation before the first `Reset()` (R322). Safe. -/
  | beforeFirstReset
  /-- A bus operation whose aligned access lies inside another register than its command code's, so that it is
  not that operation but the other register's (R119); raised by the bus operations (log 8). Safe. -/
  | otherRegister
  /-- A frame that decodes to no operation (R6, R119), raised by the step. Safe. -/
  | undecodable (e : DecodeError)
  deriving DecidableEq, Repr, Inhabited

/-- The divisor as initialisation leaves it: the `reset` values of R110, all 0 (R68, R323). -/
def Divisor.zero : Divisor :=
  { cnt := initValue (some 0)
    numer := initValue (some 0)
    denom := initValue (some 0)
    result := initValue (some 0)
    rem := initValue (some 0) }

/-- The CPU at power-on (R40): `draw` is the power-on `CPSR`, `coproc` the instance's configuration. R40
gives `PC` no value here; every operation that reads it is refused until `Reset()` writes it (log 18). -/
def Cpu.powerOn (draw : Word) (coproc : Option CoprocId) : Cpu :=
  { regs := RegFile.empty
    pc := 0
    cpsr := draw
    spsr := SpsrFile.filled none
    lines := { fiq := false, irq := false, halt := false }
    recheck := false
    clock := 0
    hle := Vector.replicate 256 none
    coproc := coproc }

/-- The block with parameters `p` at power-on (R40, power-on column). -/
def State.powerOn (p : Params) (draw : Word) (coproc : Option CoprocId) : State :=
  { params := p
    cpu := Cpu.powerOn draw coproc
    div := Divisor.zero
    pen := { down := false, x := 0, y := 0 }
    ts := .closed
    ram := []
    wasReset := false
    input := []
    reply := .none
    nextFree := 0 }

/-- The block right after `Reset()` from power-on with no coprocessor (R40, after-`Reset()` column): the
draw keeps its flags and reserved bits and is saved in `SPSR_svc`. -/
def State.afterReset (p : Params) (draw : Word) : State :=
  { State.powerOn p draw none with
    cpu :=
      { Cpu.powerOn draw none with
        regs := { RegFile.empty with r14svc := some 0 }
        cpsr := (draw &&& 0xFFFFFF00) ||| 0xD3
        spsr := { SpsrFile.filled none with svc := some draw }
        clock := 3 }
    wasReset := true }

/-- The machine right after reset. The power-on `CPSR` is an arbitrary draw in R40; this one is 0, the draw
95_test_vectors.md section 2.1 starts from. The parameters are R7's suggestions. Where R40 leaves a register or a
saved status with no value, it holds 0 here, as if the environment had written it. DESIGN CHOICE, unsafe (log 1,
log 2, log 10, log 11). -/
def State.reset : State :=
  let r := State.afterReset Params.suggested 0
  { r with cpu := { r.cpu with regs := RegFile.filled (some 0), spsr := SpsrFile.filled (some 0) } }

end Sys2Proof.Machine
end

