-- ==== Sys2Proof/Config.lean ====
section
/-! DEFINITION. The open parameters of 00_scope.md R7 that the block only consumes: constants with no body,
so that no proof can see a value. The parameters that have a value are in Machine/Params.lean. -/

namespace Sys2Proof.Config

/-- `EXC_BASE()` of a coprocessor, read at an exception entry (R7, R35, R267; 92_eei_decisions.md D4: OPEN).
The counter makes each reading its own value, since the coprocessor's state may have changed. Free value
(log 12). -/
opaque excBase : CoprocId → Nat → Word

/-- `HLE_HOOK`: the CPU state a hook leaves and the cycle count it returns (R7, R264; D5: OPEN, a relation).
The counter makes each call its own value, so that two calls on equal CPU states may differ. Free value
(log 13). -/
opaque hleHook : HookId → Nat → Machine.Cpu → Machine.Cpu × DWord

end Sys2Proof.Config
end

