-- ==== Sys2Proof/Machine/Flags.lean ====
section
/-! DEFINITION. The fields of a program status register (30_encoding.md R92), the status an exception entry
leaves (60_exceptions.md R265, R94), and the computed bits of `DIVCNT` (R111, R174). -/

namespace Sys2Proof.Machine

/-- The mode field M (R92). -/
def psrM (w : Word) : BitVec 5 := w.extractLsb' 0 5

/-- The mode a status names, or `none` for an invalid code (R90, R91). -/
def psrMode (w : Word) : Option Mode := modeOfCode (psrM w)

/-- The width flag T: 1 = Thumb (R92). -/
def psrT (w : Word) : Bool := w.getLsbD 5

/-- The FIQ mask F (R92). -/
def psrF (w : Word) : Bool := w.getLsbD 6

/-- The IRQ mask I (R92). -/
def psrI (w : Word) : Bool := w.getLsbD 7

/-- The overflow flag V (R92). -/
def psrV (w : Word) : Bool := w.getLsbD 28

/-- The carry flag C (R92). -/
def psrC (w : Word) : Bool := w.getLsbD 29

/-- The zero flag Z (R92). -/
def psrZ (w : Word) : Bool := w.getLsbD 30

/-- The negative flag N (R92). -/
def psrN (w : Word) : Bool := w.getLsbD 31

/-- The sticky flag Q (R92). -/
def psrQ (w : Word) : Bool := w.getLsbD 27

/-- Clear T: force ARM width (R265). -/
def psrClearT (w : Word) : Word := w &&& 0xFFFFFFDF

/-- Replace the mode field (R265). -/
def psrSetM (w : Word) (m : Mode) : Word := (w &&& 0xFFFFFFE0) ||| (modeCode m).setWidth 32

/-- Set I (R265). -/
def psrSetI (w : Word) : Word := w ||| 0x80

/-- Set F (R265). -/
def psrSetF (w : Word) : Word := w ||| 0x40

/-- `CPSR` after the entry of a kind, in R265's order: T cleared, M switched, I set, F set for Reset and FIQ;
N, Z, C, V, Q and the reserved bits are unchanged. -/
def entryPsr (k : Kind) (old : Word) : Word :=
  let w := psrSetI (psrSetM (psrClearT old) (modeOfExc (kindMode k)))
  if kindMasksFiq k then psrSetF w else w

/-- The DIV0 flag: the full 64-bit denominator is zero (R111, R174). -/
def div0Flag (denom : DWord) : Bool := denom == 0

/-- What a read of `DIVCNT` computes before lane selection (R174): MODE, DIV0, and BUSY, always 0. -/
def divcntRead (cnt : BitVec 16) (denom : DWord) : BitVec 16 :=
  (cnt &&& 0x0003)
    ||| ((BitVec.ofBool (div0Flag denom)).setWidth 16 <<< divcntDiv0Bit)
    ||| ((0 : BitVec 16) <<< divcntBusyBit)

end Sys2Proof.Machine
end

