-- ==== Sys2Proof/Machine/Ops.lean ====
section
/-! DEFINITION. The named operations over registers, status, lines, RAM and replies; taking an exception
(60_exceptions.md R262-R268) and the SWI shortcut (R264); the return beside it (R290). -/

namespace Sys2Proof.Machine

/-! ## Registers (R20, R21, R24, R29) -/

/-- Read a general register by name; `none` if it holds no value (R24). -/
def RegFile.get (f : RegFile) : Gpr → Option Word
  | .r0 => f.r0
  | .r1 => f.r1
  | .r2 => f.r2
  | .r3 => f.r3
  | .r4 => f.r4
  | .r5 => f.r5
  | .r6 => f.r6
  | .r7 => f.r7
  | .r8usr => f.r8usr
  | .r9usr => f.r9usr
  | .r10usr => f.r10usr
  | .r11usr => f.r11usr
  | .r12usr => f.r12usr
  | .r8fiq => f.r8fiq
  | .r9fiq => f.r9fiq
  | .r10fiq => f.r10fiq
  | .r11fiq => f.r11fiq
  | .r12fiq => f.r12fiq
  | .r13usr => f.r13usr
  | .r14usr => f.r14usr
  | .r13fiq => f.r13fiq
  | .r14fiq => f.r14fiq
  | .r13svc => f.r13svc
  | .r14svc => f.r14svc
  | .r13abt => f.r13abt
  | .r14abt => f.r14abt
  | .r13irq => f.r13irq
  | .r14irq => f.r14irq
  | .r13und => f.r13und
  | .r14und => f.r14und

/-- Write a general register by name. -/
def RegFile.set (f : RegFile) (g : Gpr) (v : Word) : RegFile :=
  match g with
  | .r0 => { f with r0 := some v }
  | .r1 => { f with r1 := some v }
  | .r2 => { f with r2 := some v }
  | .r3 => { f with r3 := some v }
  | .r4 => { f with r4 := some v }
  | .r5 => { f with r5 := some v }
  | .r6 => { f with r6 := some v }
  | .r7 => { f with r7 := some v }
  | .r8usr => { f with r8usr := some v }
  | .r9usr => { f with r9usr := some v }
  | .r10usr => { f with r10usr := some v }
  | .r11usr => { f with r11usr := some v }
  | .r12usr => { f with r12usr := some v }
  | .r8fiq => { f with r8fiq := some v }
  | .r9fiq => { f with r9fiq := some v }
  | .r10fiq => { f with r10fiq := some v }
  | .r11fiq => { f with r11fiq := some v }
  | .r12fiq => { f with r12fiq := some v }
  | .r13usr => { f with r13usr := some v }
  | .r14usr => { f with r14usr := some v }
  | .r13fiq => { f with r13fiq := some v }
  | .r14fiq => { f with r14fiq := some v }
  | .r13svc => { f with r13svc := some v }
  | .r14svc => { f with r14svc := some v }
  | .r13abt => { f with r13abt := some v }
  | .r14abt => { f with r14abt := some v }
  | .r13irq => { f with r13irq := some v }
  | .r14irq => { f with r14irq := some v }
  | .r13und => { f with r13und := some v }
  | .r14und => { f with r14und := some v }

/-- The register of `f` where it holds a value, and else that of `g`. -/
def RegFile.orElse (f g : RegFile) : RegFile :=
  { r0 := f.r0 <|> g.r0, r1 := f.r1 <|> g.r1, r2 := f.r2 <|> g.r2,
    r3 := f.r3 <|> g.r3, r4 := f.r4 <|> g.r4, r5 := f.r5 <|> g.r5,
    r6 := f.r6 <|> g.r6, r7 := f.r7 <|> g.r7, r8usr := f.r8usr <|> g.r8usr,
    r9usr := f.r9usr <|> g.r9usr, r10usr := f.r10usr <|> g.r10usr, r11usr := f.r11usr <|> g.r11usr,
    r12usr := f.r12usr <|> g.r12usr, r8fiq := f.r8fiq <|> g.r8fiq, r9fiq := f.r9fiq <|> g.r9fiq,
    r10fiq := f.r10fiq <|> g.r10fiq, r11fiq := f.r11fiq <|> g.r11fiq, r12fiq := f.r12fiq <|> g.r12fiq,
    r13usr := f.r13usr <|> g.r13usr, r14usr := f.r14usr <|> g.r14usr, r13fiq := f.r13fiq <|> g.r13fiq,
    r14fiq := f.r14fiq <|> g.r14fiq, r13svc := f.r13svc <|> g.r13svc, r14svc := f.r14svc <|> g.r14svc,
    r13abt := f.r13abt <|> g.r13abt, r14abt := f.r14abt <|> g.r14abt, r13irq := f.r13irq <|> g.r13irq,
    r14irq := f.r14irq <|> g.r14irq, r13und := f.r13und <|> g.r13und, r14und := f.r14und <|> g.r14und }

/-- Read a saved status register; `none` if it holds no value (R24). -/
def SpsrFile.get (f : SpsrFile) : ExcMode → Option Word
  | .fiq => f.fiq
  | .svc => f.svc
  | .abt => f.abt
  | .irq => f.irq
  | .und => f.und

/-- Write a saved status register. -/
def SpsrFile.set (f : SpsrFile) (m : ExcMode) (v : Word) : SpsrFile :=
  match m with
  | .fiq => { f with fiq := some v }
  | .svc => { f with svc := some v }
  | .abt => { f with abt := some v }
  | .irq => { f with irq := some v }
  | .und => { f with und := some v }

/-- The saved status of `f` where it holds a value, and else that of `g`. -/
def SpsrFile.orElse (f g : SpsrFile) : SpsrFile :=
  { fiq := f.fiq <|> g.fiq, svc := f.svc <|> g.svc, abt := f.abt <|> g.abt, irq := f.irq <|> g.irq,
    und := f.und <|> g.und }

/-- Read a physical register (R134). `PC` always holds a value once the first `Reset()` ran (log 18). -/
def Cpu.readPhys (c : Cpu) : PhysReg → Option Word
  | .gpr g => c.regs.get g
  | .pc => some c.pc

/-- Write a physical register (R134). -/
def Cpu.writePhys (c : Cpu) (r : PhysReg) (v : Word) : Cpu :=
  match r with
  | .gpr g => { c with regs := c.regs.set g v }
  | .pc => { c with pc := v }

/-! ## Replies and the CPU as a whole -/

/-- Set the value the operation returns. -/
def State.withReply (s : State) (r : Reply) : State := { s with reply := r }

/-- Replace the CPU and return nothing. -/
def State.withCpu (s : State) (c : Cpu) : State := { s with cpu := c, reply := .none }

/-- Replace the divisor and return nothing. -/
def State.withDiv (s : State) (d : Divisor) : State := { s with div := d, reply := .none }

/-- Replace the transfer state and return nothing. -/
def State.withTs (s : State) (t : TscState) : State := { s with ts := t, reply := .none }

/-- Replace the pen state and return nothing. -/
def State.withPen (s : State) (p : Pen) : State := { s with pen := p, reply := .none }

/-- The outcome type of every meaning. -/
abbrev Result := Host.Outcome State Fault Refusal

/-- A CPU operation is admitted only after the first `Reset()` (R322). -/
def afterFirstReset (s : State) (k : Result) : Result :=
  if s.wasReset then k else .refused .beforeFirstReset

/-- The current mode, or the guard fault of R130 and R131 for an invalid code. -/
def withMode (s : State) (k : Mode → Result) : Result :=
  match psrMode s.cpu.cpsr with
  | some m => k m
  | none => .fault (.badMode s.cpu.cpsr)

/-- The SPSR the current mode owns, or `F_SPSR_UNBANKED` (R135, R136, R290). -/
def withSpsrMode (s : State) (k : ExcMode → Result) : Result :=
  withMode s fun m =>
    match spsrOf m with
    | some e => k e
    | none => .fault (.spsrUnbanked m)

/-- The value a register or SPSR holds, or the given fault (R24). -/
def withValue (v : Option Word) (f : Fault) (k : Word → Result) : Result :=
  match v with
  | some w => k w
  | none => .fault f

/-! ## Lines (R139) -/

/-- Whether a line is asserted. -/
def Lines.has (l : Lines) : Line → Bool
  | .fiq => l.fiq
  | .irq => l.irq
  | .halt => l.halt

/-- Set or clear one line and nothing else. -/
def Lines.put (l : Lines) (n : Line) (b : Bool) : Lines :=
  match n with
  | .fiq => { l with fiq := b }
  | .irq => { l with irq := b }
  | .halt => { l with halt := b }

/-- `LINES` after `SetLine(line, asserting)`: asserting IRQ or FIQ clears HALT (R139). -/
def Lines.change (l : Lines) (n : Line) (asserting : Bool) : Lines :=
  if asserting then
    match n with
    | .fiq => (l.put .fiq true).put .halt false
    | .irq => (l.put .irq true).put .halt false
    | .halt => l.put .halt true
  else l.put n false

/-! ## Emulated RAM (R70) -/

/-- What an address nothing has written reads as. DESIGN CHOICE (log 9). -/
def ramUnlisted : Byte := 0

/-- The byte at an address. -/
def Memory.read (m : Memory) (a : Nat) : Byte :=
  match m with
  | [] => ramUnlisted
  | (a', b) :: t => if a' = a then b else Memory.read t a

/-- Put a byte at the head, unless it is what an unlisted address reads as. -/
def Memory.consByte (a : Nat) (b : Byte) (t : Memory) : Memory :=
  if b = ramUnlisted then t else (a, b) :: t

/-- Write one byte, keeping the canonical form. -/
def Memory.write (m : Memory) (a : Nat) (b : Byte) : Memory :=
  match m with
  | [] => Memory.consByte a b []
  | (a', b') :: t =>
    if a < a' then Memory.consByte a b ((a', b') :: t)
    else if a = a' then Memory.consByte a b t
    else (a', b') :: Memory.write t a b

/-- Every address of `m` is above `lo`, rising and below 2^32, and no byte reads as unlisted. -/
def Memory.wfAbove (lo : Option Nat) (m : Memory) : Bool :=
  match m with
  | [] => true
  | (a, b) :: t =>
    (match lo with
      | none => true
      | some l => decide (l < a)) && decide (a < 2 ^ 32) && (b != ramUnlisted)
      && Memory.wfAbove (some a) t

/-- The canonical form: addresses strictly rising, below 2^32, no entry that reads as unlisted. -/
def Memory.wf (m : Memory) : Bool := Memory.wfAbove none m

/-- `MemRead(addr, 1)` (R70), unsigned (R71). -/
def memRead1 (m : Memory) (addr : BitVec 32) : Nat := (m.read addr.toNat).toNat

/-- `MemRead(addr, 2)`, little-endian (R64, R70), unsigned (R71). The second byte's address is modulo 2^32 (log 10). -/
def memRead2 (m : Memory) (addr : BitVec 32) : Nat :=
  (m.read addr.toNat).toNat + 256 * (m.read (addr + 1).toNat).toNat

/-! ## Taking an exception (R262-R268) -/

/-- The return address (R262, R95): `PC` plus the offset of the kind and of the T bit. -/
def returnAddress (k : Kind) (c : Cpu) : Word := c.pc + kindOffset k (psrT c.cpsr)

/-- The exception base at this entry (R35, R267): 0 with no coprocessor, else `EXC_BASE()`, a free value. -/
def excBase (s : State) : Word :=
  match s.cpu.coproc with
  | none => 0
  | some c => Config.excBase c s.nextFree

/-- The free-value counter after the base is evaluated. -/
def nextFreeAfterBase (s : State) : Nat :=
  match s.cpu.coproc with
  | none => s.nextFree
  | some _ => s.nextFree + 1

/-- The full exception entry (R265, R266): the status with the entry's fields forced, the old status in the
target mode's SPSR, the return address in its `r14`, `PC` at the vector (R267), `CLOCK` plus 3 (R268). -/
def enterException (k : Kind) (s : State) : State :=
  { s with
    cpu :=
      { s.cpu with
        regs := s.cpu.regs.set (r14Of (kindMode k)) (returnAddress k s.cpu)
        spsr := s.cpu.spsr.set (kindMode k) s.cpu.cpsr
        cpsr := entryPsr k s.cpu.cpsr
        pc := excBase s + BitVec.ofNat 32 (kindOrdinal k * 4)
        clock := s.cpu.clock + entryCycles }
    nextFree := nextFreeAfterBase s
    reply := .none }

/-- A direct dispatch of a kind other than SoftwareInterrupt: masks are not checked (R265). -/
def dispatchKind (k : Kind) (s : State) : Result :=
  afterFirstReset s (.next (enterException k s))

/-- What the CPU is when a SWI hook runs: `PC` already behind the SWI (R264). -/
def hookEntryCpu (c : Cpu) : Cpu := { c with pc := returnAddress .softwareInterrupt c }

/-- What the CPU is after hook `h` (R264): the hook's free effect on any CPU state but the HLE table (R34,
R340), and `CLOCK` plus its cycle count plus 3. A register that holds a value keeps holding one: nothing in R25
makes it lose it (log 13). -/
def hookExitCpu (h : HookId) (s : State) : Cpu :=
  let r := Config.hleHook h s.nextFree (hookEntryCpu s.cpu)
  { r.1 with
    regs := r.1.regs.orElse s.cpu.regs
    spsr := r.1.spsr.orElse s.cpu.spsr
    hle := s.cpu.hle
    clock := r.1.clock + r.2 + entryCycles }

/-- The SWI HLE path (R264). A hook writes `CPSR` through the mode-aware setters (R25), so one that would
leave an invalid mode code faults as they do (R91, R133; log 13). -/
def runHook (h : HookId) (s : State) : Result :=
  match psrMode (hookExitCpu h s).cpsr with
  | some _ => .next { s with cpu := hookExitCpu h s, nextFree := s.nextFree + 1, reply := .none }
  | none => .fault (.badMode (hookExitCpu h s).cpsr)

/-- `dispatch(SoftwareInterrupt, imm8)` (R263, R271): the HLE table first, else the full entry. -/
def dispatchSwi (imm8 : Byte) (s : State) : Result :=
  afterFirstReset s <|
    match s.cpu.hle[imm8.toNat]'imm8.isLt with
    | some h => runHook h s
    | none => .next (enterException .softwareInterrupt s)

/-- The return half of a trap (R290): `CPSR` from the current mode's SPSR; `PC` is not changed. -/
def restoreCpsr (s : State) : Result :=
  withSpsrMode s fun e =>
    withValue (s.cpu.spsr.get e) (.unwritten (.spsr e)) fun v =>
      match psrMode v with
      | some _ => .next (s.withCpu { s.cpu with cpsr := v })
      | none => .fault (.badMode v)

/-- `Reset()` (R320): `PC`, `RECHECK` and `CLOCK` zeroed, the Reset entry, the two peripheral resets (R323,
R324). Everything else keeps its value (R321). -/
def resetBlock (s : State) : State :=
  { enterException .reset { s with cpu := { s.cpu with pc := 0, recheck := false, clock := 0 } } with
    div := Divisor.zero
    ts := .closed
    wasReset := true }

/-! ## Outcomes, for statements and tests -/

/-- The next state of an outcome, if it has one. -/
def nextOf (o : Result) : Option State :=
  match o with
  | .next s => some s
  | .fault _ => none
  | .refused _ => none

/-- The fault of an outcome, if it is one. -/
def faultOf (o : Result) : Option Fault :=
  match o with
  | .next _ => none
  | .fault f => some f
  | .refused _ => none

/-- The refusal of an outcome, if it is one. -/
def refusalOf (o : Result) : Option Refusal :=
  match o with
  | .next _ => none
  | .fault _ => none
  | .refused r => some r

end Sys2Proof.Machine
end

