-- ==== Sys2Proof/Machine/CpuPort.lean ====
section
/-! DEFINITION. The CPU port operations (40_cpu_port.md R130-R141). Each but `SetSwiHle`, `SetCoprocessor`
and `SetLine` is refused before the first `Reset()` (70_reset_and_hazards.md R322). -/

namespace Sys2Proof.Machine

/-- `ReadReg(i)` (R130): no pipeline offset on `PC`. -/
def execReadReg (i : BitVec 4) (s : State) : Result :=
  afterFirstReset s <| withMode s fun m =>
    withValue (s.cpu.readPhys (view m i)) (.unwritten (.phys (view m i))) fun v =>
      .next (s.withReply (.word v))

/-- `WriteReg(i, v)` (R131): `PC` takes `v` exactly. -/
def execWriteReg (i : BitVec 4) (v : Word) (s : State) : Result :=
  afterFirstReset s <| withMode s fun m => .next (s.withCpu (s.cpu.writePhys (view m i) v))

/-- `ReadCpsr()` (R132). -/
def execReadCpsr (s : State) : Result :=
  afterFirstReset s (.next (s.withReply (.word s.cpu.cpsr)))

/-- `WriteCpsr(v)` (R133): all 32 bits, if the mode code is valid. -/
def execWriteCpsr (v : Word) (s : State) : Result :=
  afterFirstReset s <|
    match psrMode v with
    | some _ => .next (s.withCpu { s.cpu with cpsr := v })
    | none => .fault (.badMode v)

/-- `ReadPhys(name)` (R134). -/
def execReadPhys (r : PhysReg) (s : State) : Result :=
  afterFirstReset s <|
    withValue (s.cpu.readPhys r) (.unwritten (.phys r)) fun v => .next (s.withReply (.word v))

/-- `WritePhys(name, v)` (R134). -/
def execWritePhys (r : PhysReg) (v : Word) (s : State) : Result :=
  afterFirstReset s (.next (s.withCpu (s.cpu.writePhys r v)))

/-- `RegSpsr()` (R135). -/
def execRegSpsr (s : State) : Result :=
  afterFirstReset s <| withSpsrMode s fun e =>
    withValue (s.cpu.spsr.get e) (.unwritten (.spsr e)) fun v => .next (s.withReply (.word v))

/-- `WriteSpsr(v)` (R136): the mode code is not checked here. -/
def execWriteSpsr (v : Word) (s : State) : Result :=
  afterFirstReset s <| withSpsrMode s fun e =>
    .next (s.withCpu { s.cpu with spsr := s.cpu.spsr.set e v })

/-- `SetSwiHle(n, hook)` (R137). -/
def execSetSwiHle (n : Int) (hook : Option HookId) (s : State) : Result :=
  if h : 0 ≤ n ∧ n ≤ 255 then
    .next (s.withCpu { s.cpu with hle := s.cpu.hle.set n.toNat hook (by omega) })
  else .fault (.hleRange n)

/-- `SetCoprocessor(c)` (R138). -/
def execSetCoprocessor (c : Option CoprocId) (s : State) : Result :=
  .next (s.withCpu { s.cpu with coproc := c })

/-- `SetLine(line, asserting)` (R139): `RECHECK` is set for a line not asserted before. -/
def execSetLine (line : Line) (asserting : Bool) (s : State) : Result :=
  .next (s.withCpu
    { s.cpu with
      lines := s.cpu.lines.change line asserting
      recheck := s.cpu.recheck || (asserting && !s.cpu.lines.has line) })

/-- `AdvanceClock(n)` (R140). -/
def execAdvanceClock (n : DWord) (s : State) : Result :=
  afterFirstReset s (.next (s.withCpu { s.cpu with clock := s.cpu.clock + n }))

/-- `ReadClock()` (R141). -/
def execReadClock (s : State) : Result :=
  afterFirstReset s (.next (s.withReply (.clock s.cpu.clock)))

end Sys2Proof.Machine
end

