-- ==== Sys2Proof/Machine/DivisorUnit.lean ====
section
/-! DEFINITION. The divisor unit (41_divisor.md R170-R186) behind the bus seam (20_memory.md R61-R67). -/

namespace Sys2Proof.Machine

/-! ## The recompute function (R176-R183) -/

/-- Mode 0, on the signed low halves (R177, R178, R179, in that order): (result, remainder). -/
def divide32 (numer denom : BitVec 32) : DWord × DWord :=
  let n := numer.toInt
  let d := denom.toInt
  if d = 0 then (if 0 ≤ n then div0Result32 else ~~~div0Result32, numer.signExtend 64)
  else if d = -1 ∧ numer = 0x80000000 then (numer.setWidth 64, 0)
  else (BitVec.ofInt 64 (n.tdiv d), BitVec.ofInt 64 (n.tmod d))

/-- Modes 1 to 3, on a signed 64-bit denominator (R181, R182, R183, in that order): (result, remainder). -/
def divide64 (numer denom : DWord) : DWord × DWord :=
  let n := numer.toInt
  let d := denom.toInt
  if d = 0 then (if 0 < n then BitVec.allOnes 64 else 1, numer)
  else if d = -1 ∧ numer = 0x8000000000000000 then (numer, 0)
  else (BitVec.ofInt 64 (n.tdiv d), BitVec.ofInt 64 (n.tmod d))

/-- `divide(MODE, DIV_NUMER, DIV_DENOM)` (R112, R176, R180): mode 2 reads the full denominator, modes 1 and
3 the sign-extended low half. -/
def divide (mode : BitVec 2) (numer denom : DWord) : DWord × DWord :=
  match mode.toNat with
  | 0 => divide32 (numer.setWidth 32) (denom.setWidth 32)
  | 2 => divide64 numer denom
  | _ => divide64 numer ((denom.setWidth 32).signExtend 64)

/-- MODE: `DIVCNT[1:0]` (R111). -/
def Divisor.mode (d : Divisor) : BitVec 2 := d.cnt.extractLsb' 0 2

/-- `recompute()` (R176): it writes the result registers directly, past their masks. -/
def Divisor.recompute (d : Divisor) : Divisor :=
  { d with
    result := (divide d.mode d.numer d.denom).1
    rem := (divide d.mode d.numer d.denom).2 }

/-! ## The bus seam (R61-R67) -/

/-- The checks of a bus access stated for register `r` (R62 first, then R63); an aligned access that lies inside
another register is not this operation (log 8). -/
def busAccess (m : DivMap) (r : DivReg) (acc : BusAccess) (k : Result) : Result :=
  let a := accessOffset m r acc
  let n := sizeBytes acc.size
  match busResolve m acc.bank a n with
  | none => .fault (.busUnmapped acc.bank a n)
  | some r' =>
    if busAligned a n then if r' = r then k else .refused .otherRegister
    else .fault (.busMisaligned acc.bank a n)

/-- The value of a 64-bit divisor register; `DIVCNT`, which is read through its callback, is not one. -/
def Divisor.data (d : Divisor) : DataReg → DWord
  | .numer => d.numer
  | .denom => d.denom
  | .result => d.result
  | .rem => d.rem

/-- `BusWrite(DIVCNT, v, L)` (R170). -/
def execBusWriteDivcnt (acc : BusAccess) (v : DWord) (s : State) : Result :=
  busAccess s.params.div .divcnt acc <|
    .next (s.withDiv
      ({ s.div with
          cnt := busMerge s.div.cnt divcntRomask ((laneMask acc).setWidth 16)
            ((laneData acc v).setWidth 16) } : Divisor).recompute)

/-- `BusWrite(DIV_NUMER, v, L)` (R171). -/
def execBusWriteDivNumer (acc : BusAccess) (v : DWord) (s : State) : Result :=
  busAccess s.params.div .numer acc <|
    .next (s.withDiv
      ({ s.div with
          numer := busMerge s.div.numer (dataRomask .numer) (laneMask acc)
            (laneData acc v) } : Divisor).recompute)

/-- `BusWrite(DIV_DENOM, v, L)` (R172). -/
def execBusWriteDivDenom (acc : BusAccess) (v : DWord) (s : State) : Result :=
  busAccess s.params.div .denom acc <|
    .next (s.withDiv
      ({ s.div with
          denom := busMerge s.div.denom (dataRomask .denom) (laneMask acc)
            (laneData acc v) } : Divisor).recompute)

/-- `BusWrite(DIV_RESULT, v, L)` and `BusWrite(DIVREM_RESULT, v, L)` (R173): every bit is in `ROMASK` and
there is no write callback, so the masked write (R65) keeps the value and nothing recomputes. -/
def execBusWriteDivResult (reg : ResultReg) (acc : BusAccess) (v : DWord) (s : State) : Result :=
  let r := resultDivReg reg
  busAccess s.params.div r acc <|
    .next (s.withDiv
      (match reg with
        | .result =>
          { s.div with
            result := busMerge s.div.result (dataRomask r) (laneMask acc) (laneData acc v) }
        | .rem =>
          { s.div with
            rem := busMerge s.div.rem (dataRomask r) (laneMask acc) (laneData acc v) }))

/-- `BusRead(DIVCNT, L)` (R174). -/
def execBusReadDivcnt (acc : BusAccess) (s : State) : Result :=
  busAccess s.params.div .divcnt acc <|
    .next (s.withReply
      (.data (laneRead acc ((divcntRead s.div.cnt s.div.denom).setWidth 64))))

/-- `BusRead(r, L)` of a data register (R175). -/
def execBusReadDivData (reg : DataReg) (acc : BusAccess) (s : State) : Result :=
  busAccess s.params.div (dataDivReg reg) acc <|
    .next (s.withReply (.data (laneRead acc (s.div.data reg))))

end Sys2Proof.Machine
end

