-- ==== Sys2Proof/Machine/Exceptions.lean ====
section
/-! DEFINITION. Exception dispatch, dispatch points, the return half of a trap and `Reset()`
(60_exceptions.md R269-R290, 70_reset_and_hazards.md R320), and the two SWI instructions that reach the
block (30_encoding.md R97). -/

namespace Sys2Proof.Machine

/-- `dispatch(Reset)` (R269). -/
def execDispatchReset (s : State) : Result := dispatchKind .reset s

/-- `dispatch(Undefined)` (R270). -/
def execDispatchUndefined (s : State) : Result := dispatchKind .undefined s

/-- `dispatch(SoftwareInterrupt, imm8)` (R271). -/
def execDispatchSoftwareInterrupt (imm8 : Byte) (s : State) : Result := dispatchSwi imm8 s

/-- `dispatch(PrefetchAbort)` (R272). -/
def execDispatchPrefetchAbort (s : State) : Result := dispatchKind .prefetchAbort s

/-- `dispatch(DataAbort)` (R273). -/
def execDispatchDataAbort (s : State) : Result := dispatchKind .dataAbort s

/-- `dispatch(AddressOverflow)` (R274). -/
def execDispatchAddressOverflow (s : State) : Result := dispatchKind .addressOverflow s

/-- `dispatch(Irq)` (R275): a direct call checks no line and no mask. -/
def execDispatchIrq (s : State) : Result := dispatchKind .irq s

/-- `dispatch(Fiq)` (R276): a direct call checks no line and no mask. -/
def execDispatchFiq (s : State) : Result := dispatchKind .fiq s

/-- `DispatchPoint()` (R280): `RECHECK` cleared, then HALT, FIQ, IRQ in that order (R282). -/
def execDispatchPoint (s : State) : Result :=
  afterFirstReset s <|
    let s0 := s.withCpu { s.cpu with recheck := false }
    if s.cpu.lines.halt then .next (s0.withReply .halted)
    else if s.cpu.lines.fiq && !psrF s.cpu.cpsr then
      .next ((enterException .fiq s0).withReply (.taken .fiq))
    else if s.cpu.lines.irq && !psrI s.cpu.cpsr then
      .next ((enterException .irq s0).withReply (.taken .irq))
    else .next (s0.withReply .run)

/-- `RestoreCpsrFromSpsr()` (R290). -/
def execRestoreCpsrFromSpsr (s : State) : Result := afterFirstReset s (restoreCpsr s)

/-- `Reset()` (R320): admitted at any time (R322). -/
def execReset (s : State) : Result := .next (resetBlock s)

/-- ARM `SWI` (R97, R271): the executor dispatches with `imm8` = bits 23:16. The condition field is the
executor's, and has been decided when the instruction reaches the block. DEDUCED (log 16). -/
def execSwiArm (_cond : BitVec 4) (imm24 : BitVec 24) (s : State) : Result :=
  dispatchSwi (armImm8 imm24) s

/-- Thumb `SWI` (R97, R271): the executor dispatches with `imm8` = bits 7:0. -/
def execSwiThumb (imm8 : Byte) (s : State) : Result := dispatchSwi imm8 s

end Sys2Proof.Machine
end

