-- ==== Sys2Proof/Machine/Touchscreen.lean ====
section
/-! DEFINITION. The touchscreen transfer controller (42_touchscreen.md R210-R230): sample computation, byte
framing (30_encoding.md R116, R117), the exchange, and the bytes the SPI master sends by class. -/

namespace Sys2Proof.Machine

/-! ## Sample computation (R215-R222) -/

/-- The eight calibration values, read once at command decode (R215). -/
structure Calibration where
  adcX1 : Int
  adcY1 : Int
  scrX1 : Int
  scrY1 : Int
  adcX2 : Int
  adcY2 : Int
  scrX2 : Int
  scrY2 : Int
  deriving DecidableEq, Repr

/-- The calibration reads (R70, R71, R215) at the addresses `CAL_ADDR`: 16-bit ADC values and 8-bit screen
values, unsigned. -/
def readCalibration (a : CalAddrs) (m : Memory) : Calibration :=
  { adcX1 := memRead2 m a.adcX1
    adcY1 := memRead2 m a.adcY1
    scrX1 := memRead1 m a.scrX1
    scrY1 := memRead1 m a.scrY1
    adcX2 := memRead2 m a.adcX2
    adcY2 := memRead2 m a.adcY2
    scrX2 := memRead1 m a.scrX2
    scrY2 := memRead1 m a.scrY2 }

/-- `clamp(v) = min(max(v, 0), 0xFFF)` (R221). -/
def clamp (v : Int) : Int := min (max v 0) 0xFFF

/-- `interp(p, adc1, scr1, adc2, scr2)` on unbounded integers, truncating toward zero (R220, R222). -/
def interp (p adc1 scr1 adc2 scr2 : Int) : Int :=
  if scr2 = scr1 then clamp adc1
  else clamp (adc1 + ((p - scr1) * (adc2 - adc1)).tdiv (scr2 - scr1))

/-- `sample(A, snapshot, cal)` (R216-R219). -/
def sample (chan : BitVec 3) (pen : Pen) (cal : Calibration) : BitVec 12 :=
  match chan.toNat with
  | 1 =>
    if pen.down then BitVec.ofInt 12 (interp pen.y cal.adcY1 cal.scrY1 cal.adcY2 cal.scrY2) else 0xFFF
  | 5 =>
    if pen.down then BitVec.ofInt 12 (interp pen.x cal.adcX1 cal.scrX1 cal.adcX2 cal.scrX2) else 0
  | _ => tscMidscale

/-- `decode(m)` of a command byte whose start bit is set (R214): REF and PD change nothing. -/
def decodeCommand (m : Byte) (pen : Pen) (cal : CalAddrs) (ram : Memory) : TscState :=
  .data1 (sample (cmdChannel m) pen (readCalibration cal ram)) (cmdMode8 m)

/-! ## Framing (R116, R117) -/

/-- The first response byte. -/
def byte1 (s : BitVec 12) (m8 : Bool) : Byte :=
  if m8 then ((s >>> 4).setWidth 8) >>> 1 else (s >>> 5).setWidth 8

/-- The second response byte. -/
def byte2 (s : BitVec 12) (m8 : Bool) : Byte :=
  if m8 then (((s >>> 4).setWidth 8) &&& 1) <<< 7 else (s <<< 3).setWidth 8

/-! ## The exchange (R211, R213, R223-R225) -/

/-- `OUT(TS)`: it depends only on the state before the master's byte is seen (R211). `Closed` has none: an
exchange there faults. -/
def exchangeOut : TscState → Byte
  | .closed => 0
  | .idle => 0
  | .data1 s m8 => byte1 s m8
  | .data2 s m8 => byte2 s m8
  | .drain => 0

/-- `NEXT(TS, m)` (R211). -/
def exchangeNext (t : TscState) (m : Byte) (pen : Pen) (cal : CalAddrs) (ram : Memory) : TscState :=
  match t with
  | .closed => .closed
  | .idle => if cmdStart m then decodeCommand m pen cal ram else .idle
  | .data1 s m8 => .data2 s m8
  | .data2 _ _ => if cmdStart m then decodeCommand m pen cal ram else .drain
  | .drain => .drain

/-- One byte exchange (R211). -/
def exchangeByte (m : Byte) (s : State) : Result :=
  if s.ts = .closed then .fault .tscNoTransfer
  else .next ((s.withTs (exchangeNext s.ts m s.pen s.params.cal s.ram)).withReply (.byte (exchangeOut s.ts)))

/-! ## The operations -/

/-- `BeginTransfer()` (R210). -/
def execBeginTransfer (s : State) : Result :=
  if s.ts = .closed then .next (s.withTs .idle) else .fault .tscOverlap

/-- `Exchange(m)` (R211). -/
def execExchange (m : Byte) (s : State) : Result := exchangeByte m s

/-- `EndTransfer()` (R212). -/
def execEndTransfer (s : State) : Result :=
  if s.ts = .closed then .fault .tscNoTransfer else .next (s.withTs .closed)

/-- `SetPen(down, x, y)` (R228). -/
def execSetPen (down : Bool) (x y : Int) (s : State) : Result :=
  .next (s.withPen { down := down, x := x, y := y })

/-- The exchange of a byte whose start bit is 0 (R213). -/
def execTscNonstart (ignored : BitVec 7) (s : State) : Result := exchangeByte (nonstartByte ignored) s

/-- The exchange of a channel-0 command byte (R214, R218). -/
def execTscCmdCh0Midscale (mode8 ref : Bool) (pd : BitVec 2) (s : State) : Result :=
  exchangeByte (cmdByte 0 mode8 ref pd) s

/-- The exchange of a channel-1 command byte (R214, R216). -/
def execTscCmdCh1Y (mode8 ref : Bool) (pd : BitVec 2) (s : State) : Result :=
  exchangeByte (cmdByte 1 mode8 ref pd) s

/-- The exchange of a channel-2 command byte (R214, R219). -/
def execTscCmdCh2Unimpl (mode8 ref : Bool) (pd : BitVec 2) (s : State) : Result :=
  exchangeByte (cmdByte 2 mode8 ref pd) s

/-- The exchange of a channel-3 command byte (R214, R219). -/
def execTscCmdCh3Unimpl (mode8 ref : Bool) (pd : BitVec 2) (s : State) : Result :=
  exchangeByte (cmdByte 3 mode8 ref pd) s

/-- The exchange of a channel-4 command byte (R214, R219). -/
def execTscCmdCh4Unimpl (mode8 ref : Bool) (pd : BitVec 2) (s : State) : Result :=
  exchangeByte (cmdByte 4 mode8 ref pd) s

/-- The exchange of a channel-5 command byte (R214, R217). -/
def execTscCmdCh5X (mode8 ref : Bool) (pd : BitVec 2) (s : State) : Result :=
  exchangeByte (cmdByte 5 mode8 ref pd) s

/-- The exchange of a channel-6 command byte (R214, R219). -/
def execTscCmdCh6Unimpl (mode8 ref : Bool) (pd : BitVec 2) (s : State) : Result :=
  exchangeByte (cmdByte 6 mode8 ref pd) s

/-- The exchange of a channel-7 command byte (R214, R219). -/
def execTscCmdCh7Unimpl (mode8 ref : Bool) (pd : BitVec 2) (s : State) : Result :=
  exchangeByte (cmdByte 7 mode8 ref pd) s

end Sys2Proof.Machine
end

