-- ==== Sys2Proof/Machine/Dispatch.lean ====
section
/-! DEFINITION. The dispatch of an operation to its meaning, one arm per constructor of Instr. -/

namespace Sys2Proof.Machine

/-- The meaning of one operation. -/
def exec (i : Instr) (s : State) : Host.Outcome State Fault Refusal :=
  match i with
  | .readReg k => Sys2Proof.Machine.execReadReg k s
  | .writeReg k v => Sys2Proof.Machine.execWriteReg k v s
  | .readCpsr => Sys2Proof.Machine.execReadCpsr s
  | .writeCpsr v => Sys2Proof.Machine.execWriteCpsr v s
  | .readPhys r => Sys2Proof.Machine.execReadPhys r s
  | .writePhys r v => Sys2Proof.Machine.execWritePhys r v s
  | .regSpsr => Sys2Proof.Machine.execRegSpsr s
  | .writeSpsr v => Sys2Proof.Machine.execWriteSpsr v s
  | .setSwiHle n hook => Sys2Proof.Machine.execSetSwiHle n hook s
  | .setCoprocessor c => Sys2Proof.Machine.execSetCoprocessor c s
  | .setLine line asserting => Sys2Proof.Machine.execSetLine line asserting s
  | .advanceClock n => Sys2Proof.Machine.execAdvanceClock n s
  | .readClock => Sys2Proof.Machine.execReadClock s
  | .dispatchReset => Sys2Proof.Machine.execDispatchReset s
  | .dispatchUndefined => Sys2Proof.Machine.execDispatchUndefined s
  | .dispatchSoftwareInterrupt imm8 => Sys2Proof.Machine.execDispatchSoftwareInterrupt imm8 s
  | .dispatchPrefetchAbort => Sys2Proof.Machine.execDispatchPrefetchAbort s
  | .dispatchDataAbort => Sys2Proof.Machine.execDispatchDataAbort s
  | .dispatchAddressOverflow => Sys2Proof.Machine.execDispatchAddressOverflow s
  | .dispatchIrq => Sys2Proof.Machine.execDispatchIrq s
  | .dispatchFiq => Sys2Proof.Machine.execDispatchFiq s
  | .dispatchPoint => Sys2Proof.Machine.execDispatchPoint s
  | .restoreCpsrFromSpsr => Sys2Proof.Machine.execRestoreCpsrFromSpsr s
  | .reset => Sys2Proof.Machine.execReset s
  | .busWriteDivcnt acc v => Sys2Proof.Machine.execBusWriteDivcnt acc v s
  | .busWriteDivNumer acc v => Sys2Proof.Machine.execBusWriteDivNumer acc v s
  | .busWriteDivDenom acc v => Sys2Proof.Machine.execBusWriteDivDenom acc v s
  | .busWriteDivResult reg acc v => Sys2Proof.Machine.execBusWriteDivResult reg acc v s
  | .busReadDivcnt acc => Sys2Proof.Machine.execBusReadDivcnt acc s
  | .busReadDivData reg acc => Sys2Proof.Machine.execBusReadDivData reg acc s
  | .beginTransfer => Sys2Proof.Machine.execBeginTransfer s
  | .exchange m => Sys2Proof.Machine.execExchange m s
  | .endTransfer => Sys2Proof.Machine.execEndTransfer s
  | .setPen down x y => Sys2Proof.Machine.execSetPen down x y s
  | .tscNonstart ignored => Sys2Proof.Machine.execTscNonstart ignored s
  | .tscCmdCh0Midscale mode8 ref pd => Sys2Proof.Machine.execTscCmdCh0Midscale mode8 ref pd s
  | .tscCmdCh1Y mode8 ref pd => Sys2Proof.Machine.execTscCmdCh1Y mode8 ref pd s
  | .tscCmdCh2Unimpl mode8 ref pd => Sys2Proof.Machine.execTscCmdCh2Unimpl mode8 ref pd s
  | .tscCmdCh3Unimpl mode8 ref pd => Sys2Proof.Machine.execTscCmdCh3Unimpl mode8 ref pd s
  | .tscCmdCh4Unimpl mode8 ref pd => Sys2Proof.Machine.execTscCmdCh4Unimpl mode8 ref pd s
  | .tscCmdCh5X mode8 ref pd => Sys2Proof.Machine.execTscCmdCh5X mode8 ref pd s
  | .tscCmdCh6Unimpl mode8 ref pd => Sys2Proof.Machine.execTscCmdCh6Unimpl mode8 ref pd s
  | .tscCmdCh7Unimpl mode8 ref pd => Sys2Proof.Machine.execTscCmdCh7Unimpl mode8 ref pd s
  | .swiArm cond imm24 => Sys2Proof.Machine.execSwiArm cond imm24 s
  | .swiThumb imm8 => Sys2Proof.Machine.execSwiThumb imm8 s

end Sys2Proof.Machine
end

