-- ==== Sys2Proof/Machine/Fetch.lean ====
section
/-! DEFINITION. Taking the environment's next input (00_scope.md R5; 20_memory.md R74; 70_reset_and_hazards.md
R340, R341; log 3, log 4). -/

namespace Sys2Proof.Machine

/-- What the next input is, with the state that has consumed it. -/
inductive Fetched where
  /-- The environment applies no more (R341). -/
  | quiet
  /-- The owner of the emulated RAM has written a byte (R340, row "memory"). -/
  | wrote (s : State)
  /-- An operation to be executed. -/
  | op (i : Instr) (s : State)
  /-- A frame that is no operation (R6). -/
  | bad (e : DecodeError)
  deriving DecidableEq, Repr

/-- The state with its remaining input. -/
def State.withInput (s : State) (rest : List Input) : State := { s with input := rest }

/-- A byte of emulated RAM written from outside the block (R70, R340). -/
def State.pokeRam (s : State) (addr : BitVec 32) (b : Byte) : State :=
  { s with ram := s.ram.write addr.toNat b }

/-- Take and decode the next input. -/
def fetch (s : State) : Fetched :=
  match s.input with
  | [] => .quiet
  | .ram addr b :: rest => .wrote ((s.withInput rest).pokeRam addr b)
  | .op ch bytes :: rest =>
    match decode ch bytes with
    | .ok i => .op i (s.withInput rest)
    | .error e => .bad e

/-- The state with the frame of an opcode-table word put before its input (log 7). -/
def State.pushWord (s : State) (nbits w : Nat) : State :=
  s.withInput (.op (tableFrame nbits w).1 (tableFrame nbits w).2 :: s.input)

end Sys2Proof.Machine
end

