-- ==== Sys2Proof/Machine/Step.lean ====
section
/-! DEFINITION. One step: the environment's next input, applied atomically (00_scope.md R5, R11). -/

namespace Sys2Proof.Machine

/-- One step. With no input left the block does nothing (70_reset_and_hazards.md R341; log 4). -/
def step (s : State) : Host.Outcome State Fault Refusal :=
  match fetch s with
  | .quiet => .next s
  | .wrote s' => .next s'
  | .op i s' => exec i s'
  | .bad e => .refused (.undecodable e)

/-- `s` with a row's word as the environment's next operation. -/
def State.withFetchWord (s : State) (nbits w : Nat) : State := s.pushWord nbits w

end Sys2Proof.Machine
end

