-- ==== Sys2Proof/Safety.lean ====
section
/-! DEFINITION. The terms the statements use: sequences of operations, the classes of operations, what an
exception entry leaves, and the invariant of the block. -/

namespace Sys2Proof

open Machine

/-- Operations applied one after the other, stopping at the first fault or refusal (R6, R74). -/
def runOps : List Instr → State → Result
  | [], s => .next s
  | i :: is, s =>
    match exec i s with
    | .next t => runOps is t
    | .fault f => .fault f
    | .refused r => .refused r

/-- The operations R322 refuses before the first `Reset()`: OPC 0x01-0x08, 0x0C, 0x0D and 0x20-0x29, and the
two SWI instructions, which dispatch. -/
def isCpuOp : Instr → Bool
  | .readReg _ => true
  | .writeReg _ _ => true
  | .readCpsr => true
  | .writeCpsr _ => true
  | .readPhys _ => true
  | .writePhys _ _ => true
  | .regSpsr => true
  | .writeSpsr _ => true
  | .advanceClock _ => true
  | .readClock => true
  | .dispatchReset => true
  | .dispatchUndefined => true
  | .dispatchSoftwareInterrupt _ => true
  | .dispatchPrefetchAbort => true
  | .dispatchDataAbort => true
  | .dispatchAddressOverflow => true
  | .dispatchIrq => true
  | .dispatchFiq => true
  | .dispatchPoint => true
  | .restoreCpsrFromSpsr => true
  | .swiArm _ _ => true
  | .swiThumb _ => true
  | _ => false

/-- The divisor's bus operations (R170-R175). -/
def isDivisorOp : Instr → Bool
  | .busWriteDivcnt _ _ => true
  | .busWriteDivNumer _ _ => true
  | .busWriteDivDenom _ _ => true
  | .busWriteDivResult _ _ _ => true
  | .busReadDivcnt _ => true
  | .busReadDivData _ _ => true
  | _ => false

/-- The operations of the SPI master (R210-R212) and the bytes it sends. -/
def isTransferOp : Instr → Bool
  | .beginTransfer => true
  | .exchange _ => true
  | .endTransfer => true
  | .tscNonstart _ => true
  | .tscCmdCh0Midscale _ _ _ => true
  | .tscCmdCh1Y _ _ _ => true
  | .tscCmdCh2Unimpl _ _ _ => true
  | .tscCmdCh3Unimpl _ _ _ => true
  | .tscCmdCh4Unimpl _ _ _ => true
  | .tscCmdCh5X _ _ _ => true
  | .tscCmdCh6Unimpl _ _ _ => true
  | .tscCmdCh7Unimpl _ _ _ => true
  | _ => false

/-- The operations that only return a value (R130, R132, R134, R135, R141, R174, R175). -/
def isReadOp : Instr → Bool
  | .readReg _ => true
  | .readCpsr => true
  | .readPhys _ => true
  | .regSpsr => true
  | .readClock => true
  | .busReadDivcnt _ => true
  | .busReadDivData _ _ => true
  | _ => false

/-- The three forms of a software interrupt: the port operation (R271) and the two instructions (R97). -/
def swiImm : Instr → Option Byte
  | .dispatchSoftwareInterrupt imm8 => some imm8
  | .swiArm _ imm24 => some (imm24.extractLsb' 16 8)
  | .swiThumb imm8 => some imm8
  | _ => none

/-- The operations that dispatch an exception kind directly (R269-R276), but for SoftwareInterrupt. -/
def dispatchedKind : Instr → Option Kind
  | .dispatchReset => some .reset
  | .dispatchUndefined => some .undefined
  | .dispatchPrefetchAbort => some .prefetchAbort
  | .dispatchDataAbort => some .dataAbort
  | .dispatchAddressOverflow => some .addressOverflow
  | .dispatchIrq => some .irq
  | .dispatchFiq => some .fiq
  | _ => none

/-- The bus operations stated for a register (R119). -/
def busOps (r : DivReg) (acc : BusAccess) (v : DWord) : List Instr :=
  match r with
  | .divcnt => [.busWriteDivcnt acc v, .busReadDivcnt acc]
  | .numer => [.busWriteDivNumer acc v, .busReadDivData .numer acc]
  | .denom => [.busWriteDivDenom acc v, .busReadDivData .denom acc]
  | .result => [.busWriteDivResult .result acc v, .busReadDivData .result acc]
  | .rem => [.busWriteDivResult .rem acc v, .busReadDivData .rem acc]

/-- The `n` bytes at offset `a` of bank `b` all lie inside register `r` (R61, R62). -/
def Inside (m : DivMap) (b : Int) (a : BitVec 32) (n : Nat) (r : DivReg) : Prop :=
  b = m.bank ∧ (m.offset r).toNat ≤ a.toNat ∧ a.toNat + n ≤ (m.offset r).toNat + divBytes r

/-- An access the register takes: lanes `k .. k + n - 1` of it, naturally aligned (R62-R64). -/
def Lanes (m : DivMap) (r : DivReg) (acc : BusAccess) : Prop :=
  acc.bank = m.bank ∧ acc.disp.toNat + sizeBytes acc.size ≤ divBytes r ∧
    ((m.offset r).toNat + acc.disp.toNat) % sizeBytes acc.size = 0

/-- `new` is `old` with the access's bytes replaced by the low bytes of `v` (R64, R65 with `ROMASK` 0). -/
def BytesReplaced (acc : BusAccess) (v old new : DWord) : Prop :=
  ∀ j < 8, byteAt new j =
    if acc.disp.toNat ≤ j ∧ j < acc.disp.toNat + sizeBytes acc.size then byteAt v (j - acc.disp.toNat)
    else byteAt old j

/-- `d` is the access's bytes of `val`, shifted down, and zero above them (R64, R67). -/
def BytesRead (acc : BusAccess) (val d : DWord) : Prop :=
  ∀ j < 8, byteAt d j = if j < sizeBytes acc.size then byteAt val (acc.disp.toNat + j) else 0

/-- The code R90 gives each mode that owns an SPSR, as a number. -/
def excCode : ExcMode → BitVec 5
  | .fiq => 0x11
  | .irq => 0x12
  | .svc => 0x13
  | .abt => 0x17
  | .und => 0x1B

/-- R21's table, written out from the spec: for each mode code of R90, the names of the visible registers 0 to 14. -/
def bankRows : List (BitVec 5 × List Gpr) :=
  let low : List Gpr := [.r0, .r1, .r2, .r3, .r4, .r5, .r6, .r7]
  let mid : List Gpr := [.r8usr, .r9usr, .r10usr, .r11usr, .r12usr]
  [(0x10, low ++ mid ++ [.r13usr, .r14usr]),
   (0x1F, low ++ mid ++ [.r13usr, .r14usr]),
   (0x11, low ++ [.r8fiq, .r9fiq, .r10fiq, .r11fiq, .r12fiq, .r13fiq, .r14fiq]),
   (0x13, low ++ mid ++ [.r13svc, .r14svc]),
   (0x17, low ++ mid ++ [.r13abt, .r14abt]),
   (0x12, low ++ mid ++ [.r13irq, .r14irq]),
   (0x1B, low ++ mid ++ [.r13und, .r14und])]

/-- What a full exception entry from `s` leaves in `t` (R265-R268), in terms of the target mode, its `r14`, the
return address, the vector offset, and whether F is forced; the status fields stand at R92's bits. The reply is
stated beside it. -/
structure Entered (m : ExcMode) (r14 : Gpr) (ret off : Word) (forceF : Bool) (s t : State) : Prop where
  upper : ∀ j, 8 ≤ j → j < 32 → t.cpu.cpsr.getLsbD j = s.cpu.cpsr.getLsbD j
  maskI : t.cpu.cpsr.getLsbD 7 = true
  maskF : t.cpu.cpsr.getLsbD 6 = (forceF || s.cpu.cpsr.getLsbD 6)
  width : t.cpu.cpsr.getLsbD 5 = false
  mode : t.cpu.cpsr.extractLsb' 0 5 = excCode m
  saved : t.cpu.spsr.get m = some s.cpu.cpsr
  otherSpsr : ∀ e, e ≠ m → t.cpu.spsr.get e = s.cpu.spsr.get e
  link : t.cpu.regs.get r14 = some ret
  otherReg : ∀ g, g ≠ r14 → t.cpu.regs.get g = s.cpu.regs.get g
  pc : t.cpu.pc =
    (match s.cpu.coproc with
      | none => 0
      | some c => Config.excBase c s.nextFree) + off
  clock : t.cpu.clock = s.cpu.clock + 3
  lines : t.cpu.lines = s.cpu.lines
  recheck : t.cpu.recheck = s.cpu.recheck
  hle : t.cpu.hle = s.cpu.hle
  coproc : t.cpu.coproc = s.cpu.coproc
  div : t.div = s.div
  pen : t.pen = s.pen
  ts : t.ts = s.ts
  ram : t.ram = s.ram
  wasReset : t.wasReset = s.wasReset
  input : t.input = s.input
  params : t.params = s.params

/-- Every general register and every saved status holds a value (R24). -/
def Held (s : State) : Prop :=
  (∀ g, (s.cpu.regs.get g).isSome = true) ∧ ∀ e, (s.cpu.spsr.get e).isSome = true

/-- The invariant of the block, in every state a step can reach from one that meets it. -/
structure Inv (s : State) : Prop where
  /-- After the first `Reset()` the mode field is a valid code (R91, R130). -/
  modeValid : s.wasReset = true → ∃ m, psrMode s.cpu.cpsr = some m
  /-- Before it no register and no SPSR holds a value and no cycle has passed (R40, R322). -/
  untouched : s.wasReset = false →
    s.cpu.regs = RegFile.empty ∧ (∀ e, s.cpu.spsr.get e = none) ∧ s.cpu.clock = 0
  /-- The stored bits of `DIVCNT` other than MODE are 0 (R36). -/
  divcntReserved : s.div.cnt &&& 0xFFFC = 0
  /-- The results are the recompute function of the inputs, or the unit is at its reset values (R37). -/
  divResults : s.div = Divisor.zero ∨
    (s.div.result, s.div.rem) = divide s.div.mode s.div.numer s.div.denom
  /-- Emulated RAM is in canonical form. -/
  ramForm : s.ram.wf = true
  /-- The divisor's registers do not overlap and lie inside their bank (R61). -/
  paramsForm : s.params.div.wf = true

end Sys2Proof
end

