-- ==== Sys2Proof/Certificates/Slice0/Obligations.lean ====
section
/-! DEFINITION. The statements for the provers, from the numbered rules of spec/. -/

open Sys2Proof Sys2Proof.Machine

/-- A step runs the operation the environment's next frame decodes to. When the first input is a frame that
decodes to i, step is exec of i at the state that has consumed the frame. That the environment's operations
stand in a list of State is the model's choice (log 3). (00_scope.md section 3, 20_memory.md section 5) -/
def Obligations.StepRunsTheNextOperation : Prop :=
  ∀ (s : State) (ch : Channel) (bytes : List Byte) (rest : List Input) (i : Instr),
    s.input = .op ch bytes :: rest → decode ch bytes = .ok i →
    step s = exec i { s with input := rest }

/-- A port frame whose command code R119 does not list is refused. For every state whose next input is a port
frame with a command code outside R119's table, step refuses, naming the code. (00_scope.md section 3,
30_encoding.md section 9) -/
def Obligations.StepRefusesUnlistedCommandCode : Prop :=
  ∀ (s : State) (opc : Byte) (r : List Byte) (rest : List Input),
    s.input = .op .port (opc :: r) :: rest → listedOpcode opc = false →
    step s = .refused (.undecodable (.unlistedOpcode opc))

/-- An input that writes a byte of emulated RAM changes that byte and nothing else. From every state whose RAM
is in canonical form (an invariant of the block): the byte at the address reads as written, every other byte
reads as before, and no other field but the input changes; with no input left a step changes nothing. That
RAM is held in State and written by input events, and the idle step, are the model's choice (log 4, log 9).
(20_memory.md section 3, 70_reset_and_hazards.md section 5) -/
def Obligations.StepAppliesTheEnvironmentsRamWrite : Prop :=
  (∀ (s : State) (addr : BitVec 32) (b : Byte) (rest : List Input),
    s.ram.wf = true → s.input = .ram addr b :: rest →
    ∃ t, step s = .next t ∧
      (∀ a, t.ram.read a = if a = addr.toNat then b else s.ram.read a) ∧
      t = { s with input := rest, ram := t.ram }) ∧
  (∀ s : State, s.input = [] → step s = .next s)

/-- A few frames and words written out from the spec decode to the operations they stand for. Command codes of
R119 from every unit, command bytes of R113, and the SWI words of R97. The operand bytes after a command
code are the model's choice (log 5), and so is the form of a bus access (log 6, log 8). (30_encoding.md
sections 4, 6 and 9) -/
def Obligations.SpecWordsDecode : Prop :=
  decode .port [0x03] = .ok .readCpsr ∧
  decode .port [0x02, 0x0D, 0xE0, 0x7F, 0x00, 0x03] = .ok (.writeReg 13 0x03007FE0) ∧
  decode .port [0x26] = .ok .dispatchIrq ∧
  decode .port [0x2A] = .ok .reset ∧
  decode .port [0x31, 0x04, 0, 0, 0, 0, 0, 0, 0, 0, 0, 0, 0, 0x02, 0x0A, 0, 0, 0, 0, 0, 0, 0] =
    .ok (.busWriteDivNumer { bank := 0, disp := 4, size := .b4 } 0x0A) ∧
  decode .port [0x34, 0, 0, 0, 0, 0, 0, 0, 0, 0, 0, 0, 0, 0x01] =
    .ok (.busReadDivcnt { bank := 0, disp := 0, size := .b2 }) ∧
  decode .port [0x41, 0x90] = .ok (.exchange 0x90) ∧
  decode .tsc [0x90] = .ok (.tscCmdCh1Y false false 0) ∧
  decode .tsc [0xD8] = .ok (.tscCmdCh5X true false 0) ∧
  decode .tsc [0x12] = .ok (.tscNonstart 0x12) ∧
  decode .arm [0x00, 0x00, 0x06, 0xEF] = .ok (.swiArm 0xE 0x060000) ∧
  decode .thumb [0x06, 0xDF] = .ok (.swiThumb 0x06)

/-- Decoding the encoding of any well-formed operation, padded with zeros, gives it back. For every well-formed
operation of the opcode table, with every operand value, and every number of zero bytes after it. The
command codes, command bytes and SWI words are the spec's. The layout of the operand bytes (log 5), the
64-bit bound of integer operands that well-formedness states (log 6), the form of a bus access (log 8), the
32-bit names of hooks and coprocessors (log 24) and the zero bytes that may follow (log 23) are the model's
choices, which no rule states. (30_encoding.md section 4, 30_encoding.md section 6, 30_encoding.md section
9) -/
def Obligations.DecodeOfEncodeIsIdentity : Prop :=
  ∀ (i : Instr) (k : Nat), i.wellFormed = true →
    decode i.channel (encode i ++ List.replicate k 0) = .ok i

/-- Every frame that decodes is the encoding of a well-formed operation of its channel, padded with zeros. The
converse of the round trip: no two operations share a frame, and no frame with a stray bit decodes. That a
byte after the operands must be zero is the model's choice (log 23), and so are the layout of the operand
bytes (log 5), the 64-bit integer operands (log 6), the form of a bus access (log 8) and the 32-bit names of
hooks and coprocessors (log 24). (30_encoding.md section 4, 30_encoding.md section 6, 30_encoding.md section
9) -/
def Obligations.DecodedFramesAreEncodings : Prop :=
  ∀ (ch : Channel) (bs : List Byte) (i : Instr), decode ch bs = .ok i →
    i.wellFormed = true ∧ i.channel = ch ∧ ∃ k, bs = encode i ++ List.replicate k 0

/-- Every step keeps the invariant of the block, and registers that hold values go on holding them. The
invariant: after the first reset the mode field is a valid code; before it no register holds a value;
DIVCNT's reserved bits are 0; the divisor's results are the recompute function of its inputs or the unit is
at its reset values; the divisor's registers do not overlap (R61); emulated RAM is in canonical form, which
is the model's choice of how RAM is held (log 9). And where every register and SPSR holds a value a step
leaves them so and does not fault F_UNWRITTEN. A mode valid and registers held after an HLE hook rest on log
13; the parameters stand in the state by log 10 and log 11. (10_state.md section 1, 10_state.md section 6,
10_state.md section 8, 30_encoding.md section 1, 30_encoding.md section 5, 20_memory.md section 2) -/
def Obligations.StepKeepsTheInvariant : Prop :=
  (∀ s t : State, Inv s → step s = .next t → Inv t) ∧
  (∀ s t : State, Held s → step s = .next t → Held t) ∧
  (∀ (s : State) (r : RegName), Held s → step s ≠ .fault (.unwritten r))

/-- The state after reset, and every power-on state, meet the invariant. State.reset, where every register and
SPSR holds a value (log 2); and for any parameters whose divisor registers do not overlap, the state after
Reset() from any power-on draw, and the power-on state for any draw and any coprocessor configuration. The
canonical form of RAM is the model's choice (log 9). (10_state.md section 8, 20_memory.md section 2) -/
def Obligations.ResetAndPowerOnMeetTheInvariant : Prop :=
  Inv State.reset ∧ Held State.reset ∧
  (∀ p draw, p.div.wf = true → Inv (State.afterReset p draw)) ∧
  ∀ p draw c, p.div.wf = true → Inv (State.powerOn p draw c)

/-- ReadReg: the visible register's value, F_UNWRITTEN, or the mode guard. After the first reset: an invalid
mode code faults F_BAD_MODE; a register that holds no value faults F_UNWRITTEN; otherwise the operation
returns the value of view(CPSR.M, i) and changes nothing else; i = 15 returns PC itself. (R130) -/
def Obligations.ReadRegReturnsTheVisibleRegister : Prop :=
  ∀ (s : State) (i : BitVec 4), s.wasReset = true →
    (psrMode s.cpu.cpsr = none → exec (.readReg i) s = .fault (.badMode s.cpu.cpsr)) ∧
    (∀ m, psrMode s.cpu.cpsr = some m →
      (s.cpu.readPhys (view m i) = none →
        exec (.readReg i) s = .fault (.unwritten (.phys (view m i)))) ∧
      (∀ v, s.cpu.readPhys (view m i) = some v →
        exec (.readReg i) s = .next { s with reply := .word v }) ∧
      exec (.readReg 15) s = .next { s with reply := .word s.cpu.pc })

/-- WriteReg: the visible register, by its name in R21's table, takes v, and nothing else changes. After the
first reset: an invalid mode code faults F_BAD_MODE; otherwise view(CPSR.M, i) holds v, every other physical
register keeps its value or its lack of one, and everything else is unchanged; i = 15 sets PC to v exactly.
For each mode code of R90 and each i below 15, after WriteReg(i, v) ReadPhys of the register that R21's
table names there returns v. (R131) -/
def Obligations.WriteRegWritesTheVisibleRegister : Prop :=
  ∀ (s : State) (i : BitVec 4) (v : Word), s.wasReset = true →
    (psrMode s.cpu.cpsr = none → exec (.writeReg i v) s = .fault (.badMode s.cpu.cpsr)) ∧
    (∀ m, psrMode s.cpu.cpsr = some m →
      (∃ t, exec (.writeReg i v) s = .next t ∧
        t.cpu.readPhys (view m i) = some v ∧
        (∀ r, r ≠ view m i → t.cpu.readPhys r = s.cpu.readPhys r) ∧
        t = { s with cpu := { s.cpu with regs := t.cpu.regs, pc := t.cpu.pc }, reply := .none }) ∧
      exec (.writeReg 15 v) s = .next { s with cpu := { s.cpu with pc := v }, reply := .none }) ∧
    (∀ row ∈ bankRows, s.cpu.cpsr.extractLsb' 0 5 = row.1 → ∀ g, row.2[i.toNat]? = some g →
      ∃ t, exec (.writeReg i v) s = .next t ∧
        exec (.readPhys (.gpr g)) t = .next { t with reply := .word v })

/-- A write in one mode is seen in another exactly where the two modes share the physical register. In mode m
write x[i], switch to mode m2 by WriteCpsr, read x[j]: the read gives the written value if i = j and the
register is r0-r7, PC or in a bank the two modes share, and otherwise what the register of m2 held before (a
value, or none: then the fault). (10_state.md section 1, 60_exceptions.md section 5) -/
def Obligations.VisibleRegistersFollowTheModesBank : Prop :=
  ∀ (s : State) (i j : BitVec 4) (v w : Word) (m m2 : Mode), s.wasReset = true →
    psrMode s.cpu.cpsr = some m → psrMode w = some m2 →
    let shared := i = j ∧ (i.toNat < 8 ∨ i.toNat = 15 ∨
      (i.toNat < 13 ∧ (m = .fiq ↔ m2 = .fiq)) ∨
      (13 ≤ i.toNat ∧ spsrOf m = spsrOf m2))
    ∃ t, runOps [.writeReg i v, .writeCpsr w] s = .next t ∧ t.cpu.cpsr = w ∧
      (shared → exec (.readReg j) t = .next { t with reply := .word v }) ∧
      (¬ shared → (∀ u, s.cpu.readPhys (view m2 j) = some u →
          exec (.readReg j) t = .next { t with reply := .word u }) ∧
        (s.cpu.readPhys (view m2 j) = none →
          exec (.readReg j) t = .fault (.unwritten (.phys (view m2 j)))))

/-- ReadPhys and WritePhys act on the named register in any mode. After the first reset: ReadPhys of a register
that holds no value faults, else returns the value and changes nothing; WritePhys gives the named register
v, keeps every other register, and changes nothing else. The mode is not looked at. (R134) -/
def Obligations.PhysicalRegisterPorts : Prop :=
  ∀ (s : State) (r : PhysReg) (v : Word), s.wasReset = true →
    (s.cpu.readPhys r = none → exec (.readPhys r) s = .fault (.unwritten (.phys r))) ∧
    (∀ u, s.cpu.readPhys r = some u → exec (.readPhys r) s = .next { s with reply := .word u }) ∧
    ∃ t, exec (.writePhys r v) s = .next t ∧ t.cpu.readPhys r = some v ∧
      (∀ q, q ≠ r → t.cpu.readPhys q = s.cpu.readPhys q) ∧
      t = { s with cpu := { s.cpu with regs := t.cpu.regs, pc := t.cpu.pc }, reply := .none }

/-- ReadCpsr returns CPSR; WriteCpsr stores all 32 bits of a value with a valid mode code; the fields by number.
After the first reset: ReadCpsr returns CPSR and changes nothing else; WriteCpsr of a value whose mode code
is one of the seven stores it whole and changes nothing else; any other mode code faults F_BAD_MODE. In any
status value each of the seven codes is the mode R90 gives it, any other code is no mode, and N, Z, C, V, Q,
I, F and T are bits 31, 30, 29, 28, 27, 7, 6 and 5, as in R92. (R132, R133) -/
def Obligations.CpsrPorts : Prop :=
  ∀ (s : State) (v : Word), s.wasReset = true →
    exec .readCpsr s = .next { s with reply := .word s.cpu.cpsr } ∧
    (v.extractLsb' 0 5 ∈ [0x10, 0x11, 0x12, 0x13, 0x17, 0x1B, 0x1F] →
      exec (.writeCpsr v) s = .next { s with cpu := { s.cpu with cpsr := v }, reply := .none }) ∧
    (v.extractLsb' 0 5 ∉ [0x10, 0x11, 0x12, 0x13, 0x17, 0x1B, 0x1F] →
      exec (.writeCpsr v) s = .fault (.badMode v) ∧ psrMode v = none) ∧
    (∀ p ∈ [((0x10 : BitVec 5), Mode.usr), (0x11, .fiq), (0x12, .irq), (0x13, .svc), (0x17, .abt),
        (0x1B, .und), (0x1F, .sys)], v.extractLsb' 0 5 = p.1 → psrMode v = some p.2) ∧
    psrN v = v.getLsbD 31 ∧ psrZ v = v.getLsbD 30 ∧ psrC v = v.getLsbD 29 ∧ psrV v = v.getLsbD 28 ∧
    psrQ v = v.getLsbD 27 ∧ psrI v = v.getLsbD 7 ∧ psrF v = v.getLsbD 6 ∧ psrT v = v.getLsbD 5

/-- RegSpsr and WriteSpsr act on the current mode's SPSR, and fault in User and System mode. After the first
reset: in User or System mode both fault F_SPSR_UNBANKED; in a mode that owns an SPSR, RegSpsr returns it or
faults F_UNWRITTEN, and WriteSpsr stores all 32 bits unchecked, keeps the other SPSRs and changes nothing
else. (R135, R136) -/
def Obligations.SpsrPorts : Prop :=
  ∀ (s : State) (v : Word) (m : Mode), s.wasReset = true → psrMode s.cpu.cpsr = some m →
    (m = .usr ∨ m = .sys →
      exec .regSpsr s = .fault (.spsrUnbanked m) ∧ exec (.writeSpsr v) s = .fault (.spsrUnbanked m)) ∧
    (∀ e, s.cpu.cpsr.extractLsb' 0 5 = excCode e →
      (s.cpu.spsr.get e = none → exec .regSpsr s = .fault (.unwritten (.spsr e))) ∧
      (∀ u, s.cpu.spsr.get e = some u → exec .regSpsr s = .next { s with reply := .word u }) ∧
      ∃ t, exec (.writeSpsr v) s = .next t ∧ t.cpu.spsr.get e = some v ∧
        (∀ e', e' ≠ e → t.cpu.spsr.get e' = s.cpu.spsr.get e') ∧
        t = { s with cpu := { s.cpu with spsr := t.cpu.spsr }, reply := .none })

/-- SetSwiHle writes entry n of the table, or faults outside 0..255. For n in 0..255 the entry holds the hook or
none, every other entry and everything else is unchanged; any other integer faults F_HLE_RANGE(n). (R137) -/
def Obligations.SetSwiHleWritesOneEntry : Prop :=
  ∀ (s : State) (n : Int) (hook : Option HookId),
    (n < 0 ∨ 255 < n → exec (.setSwiHle n hook) s = .fault (.hleRange n)) ∧
    (0 ≤ n ∧ n ≤ 255 → ∃ t, exec (.setSwiHle n hook) s = .next t ∧
      (∀ k : Fin 256, t.cpu.hle[k] = if (k.val : Int) = n then hook else s.cpu.hle[k]) ∧
      t = { s with cpu := { s.cpu with hle := t.cpu.hle }, reply := .none })

/-- SetCoprocessor writes COPROC and nothing else; the vectors follow it at the next entry. The operation stores
none or the coprocessor, before and after the first reset; after the first reset, with none, the next IRQ
entry goes to 0x18, and with a coprocessor to its base plus 0x18. (R138) -/
def Obligations.SetCoprocessorWritesCoproc : Prop :=
  ∀ (s : State) (c : Option CoprocId),
    exec (.setCoprocessor c) s = .next { s with cpu := { s.cpu with coproc := c }, reply := .none } ∧
    (s.wasReset = true → ∃ t, runOps [.setCoprocessor c, .dispatchIrq] s = .next t ∧
      t.cpu.pc = (match c with
        | none => 0
        | some k => Config.excBase k s.nextFree) + 0x18)

/-- SetLine: the line, HALT and RECHECK as the rule says, whatever the masks. Asserting sets the line and, for
IRQ and FIQ, clears HALT; the other interrupt line keeps its state; RECHECK becomes 1 for a line that was
not asserted and else stays. Deasserting clears the line only. Nothing else changes, and CPSR is not read.
(R139) -/
def Obligations.SetLineChangesTheLines : Prop :=
  ∀ (s : State) (l : Line) (b : Bool),
    ∃ t, exec (.setLine l b) s = .next t ∧
      t.cpu.lines.fiq = (if l = .fiq then b else s.cpu.lines.fiq) ∧
      t.cpu.lines.irq = (if l = .irq then b else s.cpu.lines.irq) ∧
      t.cpu.lines.halt =
        (if l = .halt then b else if b = true then false else s.cpu.lines.halt) ∧
      t.cpu.recheck = (if b = true ∧ s.cpu.lines.has l = false then true else s.cpu.recheck) ∧
      t = { s with cpu := { s.cpu with lines := t.cpu.lines, recheck := t.cpu.recheck }, reply := .none }

/-- AdvanceClock adds n modulo 2^64; ReadClock returns CLOCK. After the first reset: AdvanceClock leaves CLOCK
at (CLOCK + n) mod 2^64 and changes nothing else; ReadClock returns CLOCK and changes nothing else. (R140,
R141) -/
def Obligations.ClockPorts : Prop :=
  ∀ (s : State) (n : DWord), s.wasReset = true →
    (∃ t, exec (.advanceClock n) s = .next t ∧
      t.cpu.clock.toNat = (s.cpu.clock.toNat + n.toNat) % 2 ^ 64 ∧
      t = { s with cpu := { s.cpu with clock := t.cpu.clock }, reply := .none }) ∧
    exec .readClock s = .next { s with reply := .clock s.cpu.clock }

/-- Before the first Reset every CPU operation is refused, and no other operation is refused for that reason.
With no reset yet, each operation R322 names is refused, and the configuration, line, pen, divisor,
touchscreen and reset operations are not refused on that ground. (70_reset_and_hazards.md section 1) -/
def Obligations.CpuOperationsWaitForTheFirstReset : Prop :=
  ∀ (s : State) (i : Instr), s.wasReset = false →
    (exec i s = .refused .beforeFirstReset ↔ isCpuOp i = true)

/-- dispatch(Reset) enters its mode at its vector. After the first reset, whatever the masks: mode SVC, I = F =
1, T = 0, r14_svc = PC + 0, PC at base + 0x00, the SPSR of the mode = the old CPSR, CLOCK plus 3, N, Z, C,
V, Q and the reserved bits unchanged, and nothing else changed. (R269) -/
def Obligations.DispatchResetEntersSvc : Prop :=
  ∀ s : State, s.wasReset = true →
    ∃ t, exec .dispatchReset s = .next t ∧ t.reply = .none ∧
      Entered .svc .r14svc s.cpu.pc 0x00 true s t

/-- dispatch(Undefined) enters its mode at its vector. After the first reset, whatever the masks: mode UND, I =
1, F unchanged, T = 0, r14_und = PC + (T ? 2 : 4), PC at base + 0x04, the SPSR of the mode = the old CPSR,
CLOCK plus 3, N, Z, C, V, Q and the reserved bits unchanged, and nothing else changed. (R270) -/
def Obligations.DispatchUndefinedEntersUnd : Prop :=
  ∀ s : State, s.wasReset = true →
    ∃ t, exec .dispatchUndefined s = .next t ∧ t.reply = .none ∧
      Entered .und .r14und (s.cpu.pc + if psrT s.cpu.cpsr then 2 else 4) 0x04 false s t

/-- A SWI whose number has no hook enters SVC mode at base + 0x08. After the first reset, for the port operation
and for the ARM and Thumb SWI instructions with that imm8: the full entry in mode SVC with I = 1, F
unchanged, T = 0, r14_svc = PC + (T ? 2 : 4), SPSR_svc = the old CPSR, PC at base + 0x08, CLOCK plus 3, and
nothing else changed. That the ARM form looks at no condition is the model's reading (log 16).
(60_exceptions.md section 2, 30_encoding.md section 4) -/
def Obligations.SwiTakesTheFullEntryWithNoHook : Prop :=
  ∀ (s : State) (i : Instr) (imm8 : Byte), s.wasReset = true → swiImm i = some imm8 →
    s.cpu.hle[imm8.toNat]'imm8.isLt = none →
    ∃ t, exec i s = .next t ∧ t.reply = .none ∧
      Entered .svc .r14svc (s.cpu.pc + if psrT s.cpu.cpsr then 2 else 4) 0x08 false s t

/-- A SWI whose number has a hook runs it with PC behind the SWI, with no entry of its own. After the first
reset, for each form of SWI: the hook is called on the CPU with PC at the return address, its answer is the
CPU state but for the table, CLOCK gains the hook's count plus 3; the answer is a free value. That a hook
leaving an invalid mode code faults, that it may not change the table, and that a register holding a value
goes on holding one, are the model's choice (log 13); that the ARM form looks at no condition is its reading
(log 16). (60_exceptions.md section 2) -/
def Obligations.SwiRunsItsHook : Prop :=
  ∀ (s : State) (i : Instr) (imm8 : Byte) (h : HookId), s.wasReset = true → swiImm i = some imm8 →
    s.cpu.hle[imm8.toNat]'imm8.isLt = some h →
    let ret := s.cpu.pc + if psrT s.cpu.cpsr then 2 else 4
    let ans := Config.hleHook h s.nextFree { s.cpu with pc := ret }
    (∀ m, psrMode ans.1.cpsr = some m → exec i s = .next
      { s with
        cpu := { ans.1 with
          regs := ans.1.regs.orElse s.cpu.regs
          spsr := ans.1.spsr.orElse s.cpu.spsr
          hle := s.cpu.hle
          clock := ans.1.clock + ans.2 + 3 }
        nextFree := s.nextFree + 1
        reply := .none }) ∧
    (psrMode ans.1.cpsr = none → exec i s = .fault (.badMode ans.1.cpsr))

/-- The ARM and Thumb SWI words decode, and do what the port operation does with their imm8. Every 32-bit word
with 1111 in bits 27:24, and every halfword with 0xDF in bits 15:8, decodes to its SWI; executing it equals
the software-interrupt dispatch with bits 23:16, respectively bits 7:0. That the ARM form looks at no
condition is the model's reading (log 16). (30_encoding.md section 4, 60_exceptions.md section 2) -/
def Obligations.SwiInstructionsCarryTheirNumber : Prop :=
  (∀ (w : BitVec 32) (s : State), w.extractLsb' 24 4 = 0xF →
    decode .arm (le32 w) = .ok (.swiArm (w.extractLsb' 28 4) (w.extractLsb' 0 24)) ∧
    exec (.swiArm (w.extractLsb' 28 4) (w.extractLsb' 0 24)) s =
      exec (.dispatchSoftwareInterrupt (w.extractLsb' 16 8)) s) ∧
  (∀ (w : BitVec 16) (s : State), w.extractLsb' 8 8 = 0xDF →
    decode .thumb (le16 w) = .ok (.swiThumb (w.extractLsb' 0 8)) ∧
    exec (.swiThumb (w.extractLsb' 0 8)) s = exec (.dispatchSoftwareInterrupt (w.extractLsb' 0 8)) s)

/-- dispatch(PrefetchAbort) enters its mode at its vector. After the first reset, whatever the masks: mode ABT,
I = 1, F unchanged, T = 0, r14_abt = PC + 4 in both widths, PC at base + 0x0C, the SPSR of the mode = the
old CPSR, CLOCK plus 3, N, Z, C, V, Q and the reserved bits unchanged, and nothing else changed. (R272) -/
def Obligations.DispatchPrefetchAbortEntersAbt : Prop :=
  ∀ s : State, s.wasReset = true →
    ∃ t, exec .dispatchPrefetchAbort s = .next t ∧ t.reply = .none ∧
      Entered .abt .r14abt (s.cpu.pc + 4) 0x0C false s t

/-- dispatch(DataAbort) enters its mode at its vector. After the first reset, whatever the masks: mode ABT, I =
1, F unchanged, T = 0, r14_abt = PC + 8 in both widths, PC at base + 0x10, the SPSR of the mode = the old
CPSR, CLOCK plus 3, N, Z, C, V, Q and the reserved bits unchanged, and nothing else changed. (R273) -/
def Obligations.DispatchDataAbortEntersAbt : Prop :=
  ∀ s : State, s.wasReset = true →
    ∃ t, exec .dispatchDataAbort s = .next t ∧ t.reply = .none ∧
      Entered .abt .r14abt (s.cpu.pc + 8) 0x10 false s t

/-- dispatch(AddressOverflow) enters its mode at its vector. After the first reset, whatever the masks: mode
SVC, I = 1, F unchanged, T = 0, r14_svc = PC + 4, PC at base + 0x14, the SPSR of the mode = the old CPSR,
CLOCK plus 3, N, Z, C, V, Q and the reserved bits unchanged, and nothing else changed. (R274) -/
def Obligations.DispatchAddressOverflowEntersSvc : Prop :=
  ∀ s : State, s.wasReset = true →
    ∃ t, exec .dispatchAddressOverflow s = .next t ∧ t.reply = .none ∧
      Entered .svc .r14svc (s.cpu.pc + 4) 0x14 false s t

/-- dispatch(Irq) enters its mode at its vector. After the first reset, whatever the masks: mode IRQ, I = 1, F
unchanged, T = 0, r14_irq = PC + 4 in both widths, PC at base + 0x18, the SPSR of the mode = the old CPSR,
CLOCK plus 3, N, Z, C, V, Q and the reserved bits unchanged, and nothing else changed. (R275) -/
def Obligations.DispatchIrqEntersIrq : Prop :=
  ∀ s : State, s.wasReset = true →
    ∃ t, exec .dispatchIrq s = .next t ∧ t.reply = .none ∧
      Entered .irq .r14irq (s.cpu.pc + 4) 0x18 false s t

/-- dispatch(Fiq) enters its mode at its vector. After the first reset, whatever the masks: mode FIQ, I = F = 1,
T = 0, r14_fiq = PC + 4 in both widths, PC at base + 0x1C, the SPSR of the mode = the old CPSR, CLOCK plus
3, N, Z, C, V, Q and the reserved bits unchanged, and nothing else changed. (R276) -/
def Obligations.DispatchFiqEntersFiq : Prop :=
  ∀ s : State, s.wasReset = true →
    ∃ t, exec .dispatchFiq s = .next t ∧ t.reply = .none ∧
      Entered .fiq .r14fiq (s.cpu.pc + 4) 0x1C true s t

/-- DispatchPoint: Halted, FIQ, IRQ or Run, in that order, with RECHECK cleared. After the first reset: with
HALT asserted it returns Halted; else an asserted unmasked FIQ is taken; else an asserted unmasked IRQ; else
Run. RECHECK is cleared in every case, the entries are those of dispatch, and nothing else changes. (R280) -/
def Obligations.DispatchPointSamplesTheLines : Prop :=
  ∀ s : State, s.wasReset = true →
    let s0 := { s with cpu := { s.cpu with recheck := false } }
    let takeFiq := s.cpu.lines.fiq = true ∧ psrF s.cpu.cpsr = false
    let takeIrq := s.cpu.lines.irq = true ∧ psrI s.cpu.cpsr = false
    (s.cpu.lines.halt = true → exec .dispatchPoint s = .next { s0 with reply := .halted }) ∧
    (s.cpu.lines.halt = false → takeFiq →
      ∃ t, exec .dispatchPoint s = .next t ∧ t.reply = .taken .fiq ∧
        Entered .fiq .r14fiq (s.cpu.pc + 4) 0x1C true s0 t) ∧
    (s.cpu.lines.halt = false → ¬ takeFiq → takeIrq →
      ∃ t, exec .dispatchPoint s = .next t ∧ t.reply = .taken .irq ∧
        Entered .irq .r14irq (s.cpu.pc + 4) 0x18 false s0 t) ∧
    (s.cpu.lines.halt = false → ¬ takeFiq → ¬ takeIrq →
      exec .dispatchPoint s = .next { s0 with reply := .run })

/-- Asserting IRQ or FIQ ends halt whatever the masks; a masked wake resumes at PC with no exception. After the
first reset, with HALT asserted: whatever the masks, SetLine of an interrupt line clears HALT, changes
nothing but the lines and RECHECK, and the next DispatchPoint does not return Halted. If both interrupts are
masked that DispatchPoint returns Run with PC, CPSR, every register and CLOCK as before; if the asserted
line's own mask is clear it takes an exception. (60_exceptions.md section 3, 40_cpu_port.md section 4) -/
def Obligations.InterruptLineWakesTheHaltedCore : Prop :=
  ∀ (s : State) (l : Line), s.wasReset = true → s.cpu.lines.halt = true → l ≠ .halt →
    (∃ t u, exec (.setLine l true) s = .next t ∧ t.cpu.lines.halt = false ∧ t.cpu.lines.has l = true ∧
      t = { s with cpu := { s.cpu with lines := t.cpu.lines, recheck := t.cpu.recheck }, reply := .none } ∧
      exec .dispatchPoint t = .next u ∧ u.reply ≠ .halted ∧
      ((if l = .fiq then psrF s.cpu.cpsr else psrI s.cpu.cpsr) = false → ∃ k, u.reply = .taken k)) ∧
    (psrI s.cpu.cpsr = true → psrF s.cpu.cpsr = true →
      ∃ t, runOps [.setLine l true, .dispatchPoint] s = .next t ∧ t.reply = .run ∧
        t.cpu.lines.has l = true ∧ t.cpu.lines.halt = false ∧
        t = { s with cpu := { s.cpu with lines := t.cpu.lines, recheck := false }, reply := .run })

/-- RestoreCpsrFromSpsr: CPSR takes the current mode's SPSR, PC stays. After the first reset: User and System
mode fault F_SPSR_UNBANKED; an SPSR that holds no value faults F_UNWRITTEN; one with an invalid mode code
faults F_BAD_MODE; otherwise CPSR takes all 32 bits of it, so that I and F are the SPSR's, and nothing else
changes. (R290) -/
def Obligations.RestoreCpsrFromTheModesSpsr : Prop :=
  ∀ (s : State) (m : Mode), s.wasReset = true → psrMode s.cpu.cpsr = some m →
    (m = .usr ∨ m = .sys → exec .restoreCpsrFromSpsr s = .fault (.spsrUnbanked m)) ∧
    (∀ e, s.cpu.cpsr.extractLsb' 0 5 = excCode e →
      (s.cpu.spsr.get e = none → exec .restoreCpsrFromSpsr s = .fault (.unwritten (.spsr e))) ∧
      (∀ v, s.cpu.spsr.get e = some v → psrMode v = none →
        exec .restoreCpsrFromSpsr s = .fault (.badMode v)) ∧
      (∀ v m2, s.cpu.spsr.get e = some v → psrMode v = some m2 →
        exec .restoreCpsrFromSpsr s =
          .next { s with cpu := { s.cpu with cpsr := v }, reply := .none }))

/-- Entry and the kind's return sequence resume where the rule says, with CPSR restored. After the first reset,
from a valid mode: an entry of Undefined, PrefetchAbort, DataAbort, Irq or Fiq, or of SoftwareInterrupt in
any of its forms with no hook at its number, followed by WriteReg(15, r14 - k) and RestoreCpsrFromSpsr
leaves CPSR as before the entry and PC at the instruction after an undefined one or a SWI, and at the
interrupted or aborted instruction otherwise. That the ARM SWI looks at no condition is the model's reading
(log 16). (60_exceptions.md section 4, 60_exceptions.md section 2) -/
def Obligations.ReturnSequencesResume : Prop :=
  ∀ (s : State) (m : Mode), s.wasReset = true → psrMode s.cpu.cpsr = some m →
    ∀ (i : Instr) (k d : Word),
      ((i, k, d) ∈ [(Instr.dispatchUndefined, (0 : Word), if psrT s.cpu.cpsr then (2 : Word) else 4),
          (.dispatchPrefetchAbort, 4, 0), (.dispatchDataAbort, 8, 0), (.dispatchIrq, 4, 0),
          (.dispatchFiq, 4, 0)] ∨
        (k = 0 ∧ d = (if psrT s.cpu.cpsr then 2 else 4) ∧
          ∃ imm8 : Byte, swiImm i = some imm8 ∧ s.cpu.hle[imm8.toNat]'imm8.isLt = none)) →
      ∃ t u lr, exec i s = .next t ∧ exec (.readReg 14) t = .next { t with reply := .word lr } ∧
        runOps [.writeReg 15 (lr - k), .restoreCpsrFromSpsr] t = .next u ∧
        u.cpu.cpsr = s.cpu.cpsr ∧ u.cpu.pc = s.cpu.pc + d

/-- After an IRQ entry an asserted FIQ with F clear is taken at the next dispatch point, and IRQ is not taken
again. After the first reset, with IRQ alone asserted and I and F clear: the dispatch point takes IRQ; a
second one returns Run; after FIQ is asserted the next takes FIQ, with the IRQ handler's CPSR in SPSR_fiq,
its PC plus 4 in r14_fiq, and SPSR_irq and r14_irq kept. (60_exceptions.md sections 3 and 4) -/
def Obligations.FiqPreemptsAnIrqHandler : Prop :=
  ∀ s : State, s.wasReset = true → s.cpu.lines = { fiq := false, irq := true, halt := false } →
    psrI s.cpu.cpsr = false → psrF s.cpu.cpsr = false →
    ∃ t u w, exec .dispatchPoint s = .next t ∧ t.reply = .taken .irq ∧
      exec .dispatchPoint t = .next u ∧ u.reply = .run ∧
      runOps [.setLine .fiq true, .dispatchPoint] u = .next w ∧ w.reply = .taken .fiq ∧
      w.cpu.spsr.get .fiq = some t.cpu.cpsr ∧ w.cpu.regs.get .r14fiq = some (t.cpu.pc + 4) ∧
      w.cpu.spsr.get .irq = some s.cpu.cpsr ∧ w.cpu.regs.get .r14irq = some (s.cpu.pc + 4)

/-- No operation but SetLine changes LINES, unless a SWI runs a hook. For every operation that is not SetLine
and not a SWI whose number has a hook, a next state has the lines it had: taking an interrupt does not clear
its line. (10_state.md section 4, 60_exceptions.md section 3) -/
def Obligations.LinesChangeOnlyBySetLine : Prop :=
  ∀ (s t : State) (i : Instr), (∀ l b, i ≠ .setLine l b) →
    (∀ imm8 : Byte, swiImm i = some imm8 → s.cpu.hle[imm8.toNat]'imm8.isLt = none) →
    exec i s = .next t → t.cpu.lines = s.cpu.lines

/-- CPSR changes only by exception entry, WriteCpsr, RestoreCpsrFromSpsr, or inside a hook. If an operation
changes CPSR then it is a dispatch, a SWI, a DispatchPoint that took an exception, Reset, WriteCpsr or
RestoreCpsrFromSpsr. (60_exceptions.md section 5) -/
def Obligations.ModeChangesOnlyByTheThreeWays : Prop :=
  ∀ (s t : State) (i : Instr), exec i s = .next t → t.cpu.cpsr ≠ s.cpu.cpsr →
    (∃ k, dispatchedKind i = some k) ∨ (∃ imm8, swiImm i = some imm8) ∨
    (i = .dispatchPoint ∧ ∃ k, t.reply = .taken k) ∨ i = .reset ∨ (∃ v, i = .writeCpsr v) ∨
    i = .restoreCpsrFromSpsr

/-- Reset: the Reset entry from PC 0 and CLOCK 0, the divisor zeroed, the transfer closed, the rest kept. From
every state: mode SVC, I = F = 1, T = 0, the flags and reserved bits kept, SPSR_svc = the old CPSR, r14_svc
= 0, PC = base + 0, CLOCK = 3, RECHECK = 0, the five divisor registers 0, TS Closed, so that the next
BeginTransfer succeeds; every other register, SPSR, the lines, the table, COPROC, PEN and RAM unchanged.
(R320, R324) -/
def Obligations.ResetWritesWhatItNames : Prop :=
  ∀ s : State, ∃ t, exec .reset s = .next t ∧ t.reply = .none ∧ t.wasReset = true ∧
    (∃ u, exec .beginTransfer t = .next u) ∧
    Entered .svc .r14svc 0 0x00 true
      { s with
        cpu := { s.cpu with pc := 0, recheck := false, clock := 0 }
        div := { cnt := 0, numer := 0, denom := 0, result := 0, rem := 0 }
        ts := .closed
        wasReset := true } t

/-- Reset from power-on with any draw gives the after-reset column of R40; State.reset is reached by writing 0.
With no coprocessor, Reset from the power-on state of any parameters and CPSR draw gives State.afterReset of
them. From the one of draw 0 and the suggested parameters, register writes of the value 0 and CPSR writes
reach State.reset: the draw (log 1), the zeros (log 2) and the parameters (log 10, log 11) are the model's
choices. (10_state.md section 8, 40_cpu_port.md section 1, 40_cpu_port.md section 2) -/
def Obligations.ResetFromPowerOnGivesTheResetState : Prop :=
  (∀ p draw, exec .reset (State.powerOn p draw none) = .next (State.afterReset p draw)) ∧
  ∃ ops : List Instr,
    (∀ i ∈ ops, (∃ r, i = .writePhys r 0) ∨ i = .writeSpsr 0 ∨ ∃ v, i = .writeCpsr v) ∧
    runOps ops (State.afterReset Params.suggested 0) = .next State.reset

/-- Mode 0: division by zero, overflow, and the truncating 32-bit division, each sign-extended as stated. On n
and d, the signed low halves: d = 0 gives the 36-bit literal for n >= 0, else its complement, and remainder
n; d = -1 with low half 0x80000000 gives 0x80000000 zero-extended and 0; otherwise the quotient truncated
toward zero, which fits 32 bits, and the remainder, sign-extended. (R177, R178, R179) -/
def Obligations.DivideModeZero : Prop :=
  ∀ numer denom : DWord,
    let n := (numer.setWidth 32).toInt
    let d := (denom.setWidth 32).toInt
    (d = 0 → divide 0 numer denom =
      (if 0 ≤ n then 0x0000000FFFFFFFFF else 0xFFFFFFF000000000, BitVec.ofInt 64 n)) ∧
    (d = -1 → numer.setWidth 32 = (0x80000000 : BitVec 32) →
      divide 0 numer denom = (0x0000000080000000, 0)) ∧
    (d ≠ 0 → ¬ (d = -1 ∧ numer.setWidth 32 = (0x80000000 : BitVec 32)) →
      (divide 0 numer denom).1.toInt = n.tdiv d ∧ (divide 0 numer denom).2.toInt = n - n.tdiv d * d ∧
      -2 ^ 31 ≤ n.tdiv d ∧ n.tdiv d < 2 ^ 31)

/-- Modes 1 to 3: division by zero, overflow, and the truncating 64-bit division. On n = the signed numerator
and d = the signed denominator in mode 2, the sign-extended low half of it in modes 1 and 3: d = 0 gives all
ones for n > 0, else 1, and remainder n; d = -1 with the least numerator gives the numerator and 0;
otherwise quotient and remainder of the division truncated toward zero. (R180, R181, R182, R183) -/
def Obligations.DivideModesOneToThree : Prop :=
  ∀ (mode : BitVec 2) (numer denom : DWord), mode ≠ 0 →
    let n := numer.toInt
    let d := if mode = 2 then denom.toInt else (denom.setWidth 32).toInt
    (d = 0 → divide mode numer denom =
      (if 0 < n then 0xFFFFFFFFFFFFFFFF else 1, numer)) ∧
    (d = -1 → numer = 0x8000000000000000 → divide mode numer denom = (0x8000000000000000, 0)) ∧
    (d ≠ 0 → ¬ (d = -1 ∧ numer = 0x8000000000000000) →
      (divide mode numer denom).1.toInt = n.tdiv d ∧
      (divide mode numer denom).2.toInt = n - n.tdiv d * d)

/-- Outside the special cases n = q * d + r with |r| < |d| and r of the numerator's sign, in every mode. With n
and d as the mode reads them, d not 0 and not the overflow pair, the signed result q and remainder r satisfy
the division identity, the bound, and r = 0 or r has the sign of n. (41_divisor.md section 3) -/
def Obligations.DivisionIdentity : Prop :=
  ∀ (mode : BitVec 2) (numer denom : DWord),
    let n := if mode = 0 then (numer.setWidth 32).toInt else numer.toInt
    let d := if mode = 2 then denom.toInt else (denom.setWidth 32).toInt
    let q := (divide mode numer denom).1.toInt
    let r := (divide mode numer denom).2.toInt
    d ≠ 0 → ¬ (d = -1 ∧ n = if mode = 0 then -2 ^ 31 else -2 ^ 63) →
      n = q * d + r ∧ r.natAbs < d.natAbs ∧ (r = 0 ∨ r.sign = n.sign)

/-- A bus write to an input register replaces the touched writable bytes, recomputes, and changes nothing else.
For every aligned access inside the register: DIVCNT takes its MODE bits from the data if byte 0 is touched,
and keeps every other stored bit; DIV_NUMER and DIV_DENOM take the touched bytes; the results are divide of
the new inputs; all else is unchanged. The form of the access operand is the model's choice (log 8); the
registers stand wherever the state's parameters put them without overlap, an invariant (log 11).
(41_divisor.md sections 1 and 2, 20_memory.md section 2) -/
def Obligations.InputWritesMergeAndRecompute : Prop :=
  ∀ (s : State) (acc : BusAccess) (v : DWord), s.params.div.wf = true →
    (Lanes s.params.div .divcnt acc → ∃ t, exec (.busWriteDivcnt acc v) s = .next t ∧
      (∀ j < 16, t.div.cnt.getLsbD j =
        if j < 2 ∧ acc.disp.toNat = 0 then v.getLsbD j else s.div.cnt.getLsbD j) ∧
      (t.div.result, t.div.rem) = divide (t.div.cnt.extractLsb' 0 2) s.div.numer s.div.denom ∧
      t = { s with div := { s.div with cnt := t.div.cnt, result := t.div.result, rem := t.div.rem },
                   reply := .none }) ∧
    (Lanes s.params.div .numer acc → ∃ t, exec (.busWriteDivNumer acc v) s = .next t ∧
      BytesReplaced acc v s.div.numer t.div.numer ∧
      (t.div.result, t.div.rem) = divide (s.div.cnt.extractLsb' 0 2) t.div.numer s.div.denom ∧
      t = { s with div := { s.div with numer := t.div.numer, result := t.div.result, rem := t.div.rem },
                   reply := .none }) ∧
    (Lanes s.params.div .denom acc → ∃ t, exec (.busWriteDivDenom acc v) s = .next t ∧
      BytesReplaced acc v s.div.denom t.div.denom ∧
      (t.div.result, t.div.rem) = divide (s.div.cnt.extractLsb' 0 2) s.div.numer t.div.denom ∧
      t = { s with div := { s.div with denom := t.div.denom, result := t.div.result, rem := t.div.rem },
                   reply := .none })

/-- A bus write to a result register leaves every register as it was and does not recompute. For every aligned
access inside DIV_RESULT or DIVREM_RESULT and every data value the whole state but the reply is unchanged;
an access inside no register, or misaligned inside its own, faults. The form of the access operand is the
model's choice (log 8); the registers stand wherever the state's parameters put them without overlap, an
invariant (log 11). (41_divisor.md section 1, 20_memory.md section 2) -/
def Obligations.ResultWritesChangeNothing : Prop :=
  ∀ (s : State) (reg : ResultReg) (acc : BusAccess) (v : DWord), s.params.div.wf = true →
    let r := resultDivReg reg
    let a := s.params.div.offset r + acc.disp
    let n := sizeBytes acc.size
    (Lanes s.params.div r acc → exec (.busWriteDivResult reg acc v) s = .next { s with reply := .none }) ∧
    ((∀ q, ¬ Inside s.params.div acc.bank a n q) →
      exec (.busWriteDivResult reg acc v) s = .fault (.busUnmapped acc.bank a n)) ∧
    (Inside s.params.div acc.bank a n r → a.toNat % n ≠ 0 →
      exec (.busWriteDivResult reg acc v) s = .fault (.busMisaligned acc.bank a n))

/-- A read of DIVCNT returns MODE, DIV0 of the full denominator, and BUSY 0, and changes no register. For every
aligned access inside DIVCNT the returned bytes are those of (DIVCNT AND 3) with bit 14 set exactly when the
full 64-bit denominator is 0; only the reply changes. The form of the access operand is the model's choice
(log 8); the registers stand wherever the state's parameters put them without overlap, an invariant (log
11). (41_divisor.md section 1, 30_encoding.md section 5) -/
def Obligations.DivcntReadComputesItsFlags : Prop :=
  ∀ (s : State) (acc : BusAccess), s.params.div.wf = true → Lanes s.params.div .divcnt acc →
    ∃ d, exec (.busReadDivcnt acc) s = .next { s with reply := .data d } ∧
      BytesRead acc
        ((s.div.cnt.setWidth 64 &&& 3) ||| (if s.div.denom = 0 then (0x4000 : DWord) else 0)) d

/-- A read of a data register returns the touched bytes, shifted down, and changes no register. For every
aligned access inside DIV_NUMER, DIV_DENOM, DIV_RESULT or DIVREM_RESULT; only the reply changes. The form of
the access operand is the model's choice (log 8); the registers stand wherever the state's parameters put
them without overlap, an invariant (log 11). (41_divisor.md section 1, 20_memory.md section 2) -/
def Obligations.DataReadReturnsTheBytes : Prop :=
  ∀ (s : State) (reg : DataReg) (acc : BusAccess), s.params.div.wf = true →
      Lanes s.params.div (dataDivReg reg) acc →
    ∃ d, exec (.busReadDivData reg acc) s = .next { s with reply := .data d } ∧
      BytesRead acc
        (match reg with
          | .numer => s.div.numer
          | .denom => s.div.denom
          | .result => s.div.result
          | .rem => s.div.rem) d

/-- A bus access inside no register faults unmapped; one inside a register but misaligned faults misaligned. For
each of the divisor's bus operations, with a the access's offset and n its size: if no register holds all
its bytes the fault is F_BUS_UNMAPPED(b, a, n), whether or not it is aligned; if a register does and n does
not divide a, it is F_BUS_MISALIGNED(b, a, n). An aligned access inside another register than the
operation's is that register's operation and is refused here. That refusal and the form of the access
operand are the model's choices (log 8); the registers stand wherever the state's parameters put them (log
11). (20_memory.md section 2, 30_encoding.md section 9) -/
def Obligations.BusFaultsUnmappedThenMisaligned : Prop :=
  ∀ (s : State) (r : DivReg) (acc : BusAccess) (v : DWord), ∀ i ∈ busOps r acc v,
    let a := s.params.div.offset r + acc.disp
    let n := sizeBytes acc.size
    ((∀ q, ¬ Inside s.params.div acc.bank a n q) → exec i s = .fault (.busUnmapped acc.bank a n)) ∧
    (∀ q, Inside s.params.div acc.bank a n q →
      (a.toNat % n ≠ 0 → exec i s = .fault (.busMisaligned acc.bank a n)) ∧
      (a.toNat % n = 0 → q ≠ r → s.params.div.wf = true → exec i s = .refused .otherRegister))

/-- Repeating an input write changes nothing more, and two 32-bit writes equal one 64-bit write. For each input
register and every aligned access inside it, the state after the same write twice is the state after it
once; and where the numerator's or the denominator's offset is a multiple of 8, as an aligned 8-byte access
needs, writing the low half at displacement 0 and the high half at 4, in either order, gives the state of
one 8-byte write of the whole value. The form of the access operand is the model's choice (log 8); the
registers stand wherever the state's parameters put them without overlap, an invariant (log 11).
(41_divisor.md section 1, 41_divisor.md section 3, 20_memory.md section 4) -/
def Obligations.RepeatedAndSplitInputWritesAgree : Prop :=
  ∀ s : State, s.params.div.wf = true →
  (∀ (acc : BusAccess) (v : DWord),
    (Lanes s.params.div .divcnt acc → ∃ t, exec (.busWriteDivcnt acc v) s = .next t ∧
      exec (.busWriteDivcnt acc v) t = .next t) ∧
    (Lanes s.params.div .numer acc → ∃ t, exec (.busWriteDivNumer acc v) s = .next t ∧
      exec (.busWriteDivNumer acc v) t = .next t) ∧
    (Lanes s.params.div .denom acc → ∃ t, exec (.busWriteDivDenom acc v) s = .next t ∧
      exec (.busWriteDivDenom acc v) t = .next t)) ∧
  (∀ v : DWord,
    let lo : BusAccess := { bank := s.params.div.bank, disp := 0, size := .b4 }
    let hi : BusAccess := { bank := s.params.div.bank, disp := 4, size := .b4 }
    let whole : BusAccess := { bank := s.params.div.bank, disp := 0, size := .b8 }
    (s.params.div.numer.toNat % 8 = 0 → ∃ t,
      runOps [.busWriteDivNumer lo (v &&& 0xFFFFFFFF), .busWriteDivNumer hi (v >>> 32)] s = .next t ∧
      runOps [.busWriteDivNumer hi (v >>> 32), .busWriteDivNumer lo (v &&& 0xFFFFFFFF)] s = .next t ∧
      exec (.busWriteDivNumer whole v) s = .next t) ∧
    (s.params.div.denom.toNat % 8 = 0 → ∃ t,
      runOps [.busWriteDivDenom lo (v &&& 0xFFFFFFFF), .busWriteDivDenom hi (v >>> 32)] s = .next t ∧
      runOps [.busWriteDivDenom hi (v >>> 32), .busWriteDivDenom lo (v &&& 0xFFFFFFFF)] s = .next t ∧
      exec (.busWriteDivDenom whole v) s = .next t))

/-- BeginTransfer opens from Closed only; EndTransfer closes any open state. From Closed, BeginTransfer gives
Idle and EndTransfer faults F_TSC_NO_TRANSFER; from any other state BeginTransfer faults F_TSC_OVERLAP and
EndTransfer gives Closed; nothing else changes. (R210, R212) -/
def Obligations.TransfersOpenAndClose : Prop :=
  ∀ s : State,
    (s.ts = .closed →
      exec .beginTransfer s = .next { s with ts := .idle, reply := .none } ∧
      exec .endTransfer s = .fault .tscNoTransfer) ∧
    (s.ts ≠ .closed →
      exec .beginTransfer s = .fault .tscOverlap ∧
      exec .endTransfer s = .next { s with ts := .closed, reply := .none })

/-- Exchange in each transfer state: the byte returned and the next state. Closed faults F_TSC_NO_TRANSFER. Idle
returns 0 and decodes a byte with bit 7 set, else stays. Data1 returns byte1 and goes to Data2. Data2
returns byte2 and decodes a byte with bit 7 set, else goes to Drain. Drain returns 0 and stays. Nothing else
changes. (R211, R213, R223, R224, R225) -/
def Obligations.ExchangeFollowsTheTransferState : Prop :=
  ∀ (s : State) (m : Byte),
    (s.ts = .closed → exec (.exchange m) s = .fault .tscNoTransfer) ∧
    (s.ts = .idle → exec (.exchange m) s = .next
      { s with ts := if m.getLsbD 7 then decodeCommand m s.pen s.params.cal s.ram else .idle, reply := .byte 0 }) ∧
    (∀ x m8, s.ts = .data1 x m8 → exec (.exchange m) s = .next
      { s with ts := .data2 x m8, reply := .byte (byte1 x m8) }) ∧
    (∀ x m8, s.ts = .data2 x m8 → exec (.exchange m) s = .next
      { s with ts := if m.getLsbD 7 then decodeCommand m s.pen s.params.cal s.ram else .drain,
               reply := .byte (byte2 x m8) }) ∧
    (s.ts = .drain → exec (.exchange m) s = .next { s with reply := .byte 0 })

/-- A byte of the SPI channel decodes to its class, completes in every open transfer, and is the exchange of
that byte. For every byte: the SPI channel's decoder accepts it; the operation it decodes to does exactly
what Exchange of that byte does; and in every open transfer state that is a next state that returns a byte.
That the table's byte rows are exchanges is the model's reading (log 7). (30_encoding.md section 6,
42_touchscreen.md section 2) -/
def Obligations.CommandBytesAreTheirExchanges : Prop :=
  ∀ m : Byte, ∃ i, decode .tsc [m] = .ok i ∧ isTransferOp i = true ∧
    ∀ s : State, exec i s = exec (.exchange m) s ∧
      (s.ts ≠ .closed → ∃ t b, exec i s = .next t ∧ t.reply = .byte b ∧
        t = { s with ts := t.ts, reply := .byte b })

/-- Each command row, in Idle, returns 0 and starts a conversion of its channel; a byte without start bit is
ignored. In Idle: the non-start byte returns 0 and changes nothing else; each of the eight command rows
returns 0 and moves to Data1 with the sample of its channel and its MODE8 bit; REF and PD change nothing.
That a command row of the opcode table executes as the exchange of its byte is the model's reading (log 7).
(42_touchscreen.md sections 2 and 3, 30_encoding.md section 6) -/
def Obligations.CommandRowsStartTheirConversion : Prop :=
  ∀ (s : State) (ig : BitVec 7) (m8 ref : Bool) (pd : BitVec 2), s.ts = .idle →
    exec (.tscNonstart ig) s = .next { s with reply := .byte 0 } ∧
    ∀ p ∈ [(Instr.tscCmdCh0Midscale m8 ref pd, (0 : BitVec 3)), (.tscCmdCh1Y m8 ref pd, 1),
        (.tscCmdCh2Unimpl m8 ref pd, 2), (.tscCmdCh3Unimpl m8 ref pd, 3),
        (.tscCmdCh4Unimpl m8 ref pd, 4), (.tscCmdCh5X m8 ref pd, 5),
        (.tscCmdCh6Unimpl m8 ref pd, 6), (.tscCmdCh7Unimpl m8 ref pd, 7)],
      exec p.1 s = .next
        { s with ts := .data1 (sample p.2 s.pen (readCalibration s.params.cal s.ram)) m8, reply := .byte 0 }

/-- The sample of each channel: Y, X, and the mid-scale constant. Channel 1 with the pen down is the
interpolation of y over the Y points, else 0xFFF; channel 5 with the pen down is the interpolation of x over
the X points, else 0; every other channel is 0x800. The interpolation is a 12-bit value. (R216, R217, R218,
R219) -/
def Obligations.SamplesByChannel : Prop :=
  ∀ (chan : BitVec 3) (pen : Pen) (cal : Calibration),
    (chan = 1 → pen.down = true →
      ((sample chan pen cal).toNat : Int) = interp pen.y cal.adcY1 cal.scrY1 cal.adcY2 cal.scrY2) ∧
    (chan = 1 → pen.down = false → sample chan pen cal = 0xFFF) ∧
    (chan = 5 → pen.down = true →
      ((sample chan pen cal).toNat : Int) = interp pen.x cal.adcX1 cal.scrX1 cal.adcX2 cal.scrX2) ∧
    (chan = 5 → pen.down = false → sample chan pen cal = 0) ∧
    (chan ≠ 1 → chan ≠ 5 → sample chan pen cal = 0x800)

/-- interp: the clamped truncating interpolation, its zero-span case, and the unit mapping. With scr2 = scr1 it
is clamp(adc1); otherwise clamp of adc1 + ((p - scr1) * (adc2 - adc1)) quot (scr2 - scr1); clamp(v) is
min(max(v, 0), 0xFFF); every value lies in 0..0xFFF; and with adc1 = scr1 and adc2 = scr2 it is p for every
p in 0..0xFFF. (R220, R221, R222) -/
def Obligations.InterpolationOnIntegers : Prop :=
  (∀ v : Int, clamp v = min (max v 0) 0xFFF) ∧
  (∀ p adc1 scr1 adc2 scr2 : Int,
    (scr2 = scr1 → interp p adc1 scr1 adc2 scr2 = clamp adc1) ∧
    (scr2 ≠ scr1 → interp p adc1 scr1 adc2 scr2 =
      clamp (adc1 + ((p - scr1) * (adc2 - adc1)).tdiv (scr2 - scr1))) ∧
    0 ≤ interp p adc1 scr1 adc2 scr2 ∧ interp p adc1 scr1 adc2 scr2 ≤ 0xFFF) ∧
  (∀ p a b : Int, 0 ≤ p → p ≤ 0xFFF → a ≠ b → interp p a a b b = p)

/-- The eight calibration values are the little-endian unsigned values at CAL_ADDR, and only those bytes matter.
For any eight addresses CAL_ADDR: each of the four ADC values is the byte at its own address plus 256 times
the byte after it, each of the four screen values the byte at its own address, and memories that agree on
those twelve bytes give the same calibration. That the state holds the addresses as a parameter, and that
the byte after 0xFFFFFFFF is the one at address 0, for which R70 states nothing, are the model's choices
(log 10). (00_scope.md section 4, 20_memory.md section 3, 42_touchscreen.md section 2) -/
def Obligations.CalibrationIsReadLittleEndian : Prop :=
  ∀ (a : CalAddrs) (m : Memory),
    let at8 := fun x : BitVec 32 => ((m.read x.toNat).toNat : Int)
    let at16 := fun x : BitVec 32 => at8 x + 256 * at8 (x + 1)
    ((readCalibration a m).adcX1 = at16 a.adcX1 ∧ (readCalibration a m).adcY1 = at16 a.adcY1 ∧
      (readCalibration a m).adcX2 = at16 a.adcX2 ∧ (readCalibration a m).adcY2 = at16 a.adcY2 ∧
      (readCalibration a m).scrX1 = at8 a.scrX1 ∧ (readCalibration a m).scrY1 = at8 a.scrY1 ∧
      (readCalibration a m).scrX2 = at8 a.scrX2 ∧ (readCalibration a m).scrY2 = at8 a.scrY2) ∧
    ∀ m' : Memory,
      (∀ x ∈ [a.adcX1, a.adcX1 + 1, a.adcY1, a.adcY1 + 1, a.adcX2, a.adcX2 + 1, a.adcY2, a.adcY2 + 1,
          a.scrX1, a.scrY1, a.scrX2, a.scrY2], m.read x.toNat = m'.read x.toNat) →
      readCalibration a m = readCalibration a m'

/-- A command and two exchanges deliver the sample of the pen and calibration at the command, in either framing.
In Idle, for every command byte: the command returns 0, whatever SetPen then does the next two exchanges
return two bytes whose big-endian pair shifted right by 3 is the 12-bit sample, or shifted right by 7 its
upper 8 bits in 8-bit mode; the first byte's bit 7 is 0. (42_touchscreen.md sections 2 and 4, 30_encoding.md
section 7) -/
def Obligations.AConversionDeliversItsSample : Prop :=
  ∀ (s : State) (m a b : Byte) (down : Bool) (x y : Int), s.ts = .idle → m.getLsbD 7 = true →
    let smp := sample (m.extractLsb' 4 3) s.pen (readCalibration s.params.cal s.ram)
    ∃ t u w b1 b2, exec (.exchange m) s = .next t ∧ t.reply = .byte 0 ∧
      runOps [.setPen down x y, .exchange a] t = .next u ∧ u.reply = .byte b1 ∧
      exec (.exchange b) u = .next w ∧ w.reply = .byte b2 ∧ b1.getLsbD 7 = false ∧
      (m.getLsbD 3 = false → (b1.toNat * 256 + b2.toNat) / 8 = smp.toNat ∧ b2.toNat % 8 = 0) ∧
      (m.getLsbD 3 = true → (b1.toNat * 256 + b2.toNat) / 128 = smp.toNat / 16 ∧ b2.toNat % 128 = 0)

/-- SetPen writes the pen state and nothing else, in every transfer state. In every state, before and after the
first reset, PEN becomes (down, x, y); the transfer state and everything else is unchanged. (R228) -/
def Obligations.SetPenWritesThePen : Prop :=
  ∀ (s : State) (down : Bool) (x y : Int),
    exec (.setPen down x y) s = .next { s with pen := { down := down, x := x, y := y }, reply := .none }

/-- Divisor operations touch only the divisor, transfer operations only the transfer state, CPU operations
neither. If an operation answers a next state: a divisor operation leaves the CPU, the pen, the transfer
state, RAM, the reset mark, the input and the counter; a transfer operation leaves the CPU, the divisor, the
pen, RAM, the reset mark, the input and the counter; a CPU operation leaves the divisor, the pen, the
transfer state, RAM, the reset mark and the input. (41_divisor.md section 3, 42_touchscreen.md section 5,
60_exceptions.md section 6) -/
def Obligations.UnitsDoNotInterfere : Prop :=
  ∀ (s t : State) (i : Instr), exec i s = .next t →
    (isDivisorOp i = true → t = { s with div := t.div, reply := t.reply }) ∧
    (isTransferOp i = true → t = { s with ts := t.ts, reply := t.reply }) ∧
    (isCpuOp i = true → t = { s with cpu := t.cpu, reply := t.reply, nextFree := t.nextFree })

/-- A pure read changes nothing but the reply, and repeating it returns the same. For the seven pure reads,
ReadReg, ReadCpsr, ReadPhys, RegSpsr, ReadClock and the two bus reads (not Exchange and DispatchPoint, which
return a value and change state): a next state is the old one but for the reply, and the operation repeated
there gives that state again. (20_memory.md sections 2 and 4) -/
def Obligations.ReadsHaveNoSideEffect : Prop :=
  ∀ (s t : State) (i : Instr), isReadOp i = true → exec i s = .next t →
    t = { s with reply := t.reply } ∧ exec i t = .next t

/-- No operation writes a byte of emulated RAM, takes an input or changes a parameter. For every operation that
answers a next state, every address reads as before, the memory is the same, and the environment's input and
the parameters of the block are untouched. That RAM, input and parameters stand in the state is the model's
choice (log 3, log 9, log 10, log 11). (42_touchscreen.md section 5, 20_memory.md section 5, 00_scope.md
section 4) -/
def Obligations.NoOperationWritesRam : Prop :=
  ∀ (s t : State) (i : Instr), exec i s = .next t →
    (∀ a, t.ram.read a = s.ram.read a) ∧ t.ram = s.ram ∧ t.input = s.input ∧ t.params = s.params

/-- CLOCK moves by 3 at an entry, by n at AdvanceClock, to 3 at Reset, and at no other operation without a hook.
For every operation that answers a next state and runs no hook: CLOCK is unchanged, or plus 3 for a
dispatch, a SWI and a taken dispatch point, or plus n for AdvanceClock, or 3 for Reset. That an ARM SWI
takes its 3 whatever its condition field is the model's reading (log 16). (40_cpu_port.md section 5,
60_exceptions.md section 2, 70_reset_and_hazards.md section 4) -/
def Obligations.ClockMovesOnlyAsTheRulesSay : Prop :=
  ∀ (s t : State) (i : Instr), exec i s = .next t →
    (∀ imm8 : Byte, swiImm i = some imm8 → s.cpu.hle[imm8.toNat]'imm8.isLt = none) →
    t.cpu.clock =
      if i = .reset then 3
      else if (dispatchedKind i).isSome = true ∨ (swiImm i).isSome = true ∨
          (i = .dispatchPoint ∧ (t.reply = .taken .fiq ∨ t.reply = .taken .irq)) then s.cpu.clock + 3
      else match i with
        | .advanceClock n => s.cpu.clock + n
        | _ => s.cpu.clock
end

