-- ==== Sys2Proof/Laws/Decode.lean ====
section
/-! SUPPORT. Each operand reader on the bytes its encoder writes. -/

namespace Sys2Proof

theorem getLsbD_byteAt {w : Nat} (v : BitVec w) (k j : Nat) :
    (byteAt v k).getLsbD j = (decide (j < 8) && v.getLsbD (8 * k + j)) := by
  simp [byteAt, BitVec.getLsbD_extractLsb']

theorem append_bytes32 (v : BitVec 32) :
    byteAt v 3 ++ byteAt v 2 ++ byteAt v 1 ++ byteAt v 0 = v := by
  apply BitVec.eq_of_getLsbD_eq
  intro j hj
  interval_cases j <;> simp only [byteAt, BitVec.getLsbD_append, BitVec.getLsbD_extractLsb'] <;> rfl

theorem append_bytes64 (v : BitVec 64) :
    byteAt v 7 ++ byteAt v 6 ++ byteAt v 5 ++ byteAt v 4 ++ byteAt v 3 ++ byteAt v 2 ++ byteAt v 1 ++
      byteAt v 0 = v := by
  apply BitVec.eq_of_getLsbD_eq
  intro j hj
  interval_cases j <;> simp only [byteAt, BitVec.getLsbD_append, BitVec.getLsbD_extractLsb'] <;> rfl

@[simp] theorem read8_cons (b : Byte) (r : List Byte) : read8 (b :: r) = .ok (b, r) := rfl

@[simp] theorem read32_le32 (v : BitVec 32) (r : List Byte) : read32 (le32 v ++ r) = .ok (v, r) := by
  simp [le32, read32, append_bytes32]

@[simp] theorem read64_le64 (v : BitVec 64) (r : List Byte) : read64 (le64 v ++ r) = .ok (v, r) := by
  simp [le64, read64, append_bytes64]

theorem readInt_encInt {n : Int} (r : List Byte) (h : intFits n = true) :
    readInt (encInt n ++ r) = .ok (n, r) := by
  simp only [intFits, Bool.and_eq_true, decide_eq_true_eq] at h
  have : (BitVec.ofInt 64 n).toInt = n := by
    rw [BitVec.toInt_ofInt, Int.bmod_def]
    split <;> omega
  simp [readInt, encInt, this]

@[simp] theorem readBool_encBool (b : Bool) (r : List Byte) :
    readBool (encBool b :: r) = .ok (b, r) := by
  cases b <;> rfl

@[simp] theorem readOptId_encOptId (c : Option (BitVec 32)) (r : List Byte) :
    readOptId (encOptId c ++ r) = .ok (c, r) := by
  cases c with
  | none => rfl
  | some v =>
    have h : readBool (encOptId (some v) ++ r) = .ok (true, le32 v ++ r) := rfl
    simp only [readOptId, h, read32_le32]

@[simp] theorem readLine_encLine (l : Line) (r : List Byte) : readLine (encLine l :: r) = .ok (l, r) := by
  cases l <;> rfl

@[simp] theorem readSize_encSize (z : AccessSize) (r : List Byte) :
    readSize (encSize z :: r) = .ok (z, r) := by
  cases z <;> rfl

@[simp] theorem readResultReg_enc (q : ResultReg) (r : List Byte) :
    readResultReg (encResultReg q :: r) = .ok (q, r) := by
  cases q <;> rfl

@[simp] theorem readDataReg_enc (q : DataReg) (r : List Byte) :
    readDataReg (encDataReg q :: r) = .ok (q, r) := by
  cases q <;> rfl

@[simp] theorem readPhysName_enc (p : PhysReg) (r : List Byte) :
    readPhysName (encPhysName p :: r) = .ok (p, r) := by
  cases p with
  | pc => rfl
  | gpr g => cases g <;> rfl

@[simp] theorem readRegNo_enc (i : BitVec 4) (r : List Byte) :
    readRegNo (i.setWidth 8 :: r) = .ok (i, r) := by
  have h : i.toNat < 16 := i.isLt
  have h2 : (i.setWidth 8).toNat = i.toNat := by
    simp [BitVec.toNat_setWidth]
    omega
  have h3 : (i.setWidth 8).setWidth 4 = i := by simp
  simp only [readRegNo, h2, h, if_true, h3]

theorem readAccess_enc {acc : BusAccess} (r : List Byte) (h : intFits acc.bank = true) :
    readAccess (encAccess acc ++ r) = .ok (acc, r) := by
  simp [readAccess, encAccess, List.append_assoc, readInt_encInt _ h]

@[simp] theorem finish_zeros (k : Nat) (i : Instr) : finish (List.replicate k 0) i = .ok i := by
  simp [finish]

theorem finish_ok {r : List Byte} {i j : Instr} (h : finish r i = .ok j) :
    j = i ∧ ∃ k, r = List.replicate k 0 := by
  unfold finish at h
  split at h
  · next hz =>
    cases h
    refine ⟨rfl, r.length, List.eq_replicate_of_mem fun b hb => ?_⟩
    simpa using List.all_eq_true.mp hz b hb
  · cases h

end Sys2Proof
end

