-- ==== Sys2Proof/Laws/State.lean ====
section
/-! SUPPORT. One lemma per field per named update of the state, true by rfl. -/

namespace Sys2Proof.Machine

@[simp] theorem State.withReply_cpu (s : State) (r : Reply) : (s.withReply r).cpu = s.cpu := rfl
@[simp] theorem State.withReply_div (s : State) (r : Reply) : (s.withReply r).div = s.div := rfl
@[simp] theorem State.withReply_pen (s : State) (r : Reply) : (s.withReply r).pen = s.pen := rfl
@[simp] theorem State.withReply_ts (s : State) (r : Reply) : (s.withReply r).ts = s.ts := rfl
@[simp] theorem State.withReply_ram (s : State) (r : Reply) : (s.withReply r).ram = s.ram := rfl
@[simp] theorem State.withReply_wasReset (s : State) (r : Reply) : (s.withReply r).wasReset = s.wasReset := rfl
@[simp] theorem State.withReply_input (s : State) (r : Reply) : (s.withReply r).input = s.input := rfl
@[simp] theorem State.withReply_reply (s : State) (r : Reply) : (s.withReply r).reply = r := rfl
@[simp] theorem State.withReply_nextFree (s : State) (r : Reply) : (s.withReply r).nextFree = s.nextFree := rfl
@[simp] theorem State.withReply_params (s : State) (r : Reply) : (s.withReply r).params = s.params := rfl

@[simp] theorem State.withCpu_cpu (s : State) (c : Cpu) : (s.withCpu c).cpu = c := rfl
@[simp] theorem State.withCpu_div (s : State) (c : Cpu) : (s.withCpu c).div = s.div := rfl
@[simp] theorem State.withCpu_pen (s : State) (c : Cpu) : (s.withCpu c).pen = s.pen := rfl
@[simp] theorem State.withCpu_ts (s : State) (c : Cpu) : (s.withCpu c).ts = s.ts := rfl
@[simp] theorem State.withCpu_ram (s : State) (c : Cpu) : (s.withCpu c).ram = s.ram := rfl
@[simp] theorem State.withCpu_wasReset (s : State) (c : Cpu) : (s.withCpu c).wasReset = s.wasReset := rfl
@[simp] theorem State.withCpu_input (s : State) (c : Cpu) : (s.withCpu c).input = s.input := rfl
@[simp] theorem State.withCpu_reply (s : State) (c : Cpu) : (s.withCpu c).reply = .none := rfl
@[simp] theorem State.withCpu_nextFree (s : State) (c : Cpu) : (s.withCpu c).nextFree = s.nextFree := rfl
@[simp] theorem State.withCpu_params (s : State) (c : Cpu) : (s.withCpu c).params = s.params := rfl

@[simp] theorem State.withDiv_cpu (s : State) (d : Divisor) : (s.withDiv d).cpu = s.cpu := rfl
@[simp] theorem State.withDiv_div (s : State) (d : Divisor) : (s.withDiv d).div = d := rfl
@[simp] theorem State.withDiv_pen (s : State) (d : Divisor) : (s.withDiv d).pen = s.pen := rfl
@[simp] theorem State.withDiv_ts (s : State) (d : Divisor) : (s.withDiv d).ts = s.ts := rfl
@[simp] theorem State.withDiv_ram (s : State) (d : Divisor) : (s.withDiv d).ram = s.ram := rfl
@[simp] theorem State.withDiv_wasReset (s : State) (d : Divisor) : (s.withDiv d).wasReset = s.wasReset := rfl
@[simp] theorem State.withDiv_input (s : State) (d : Divisor) : (s.withDiv d).input = s.input := rfl
@[simp] theorem State.withDiv_reply (s : State) (d : Divisor) : (s.withDiv d).reply = .none := rfl
@[simp] theorem State.withDiv_nextFree (s : State) (d : Divisor) : (s.withDiv d).nextFree = s.nextFree := rfl
@[simp] theorem State.withDiv_params (s : State) (d : Divisor) : (s.withDiv d).params = s.params := rfl

@[simp] theorem State.withTs_cpu (s : State) (t : TscState) : (s.withTs t).cpu = s.cpu := rfl
@[simp] theorem State.withTs_div (s : State) (t : TscState) : (s.withTs t).div = s.div := rfl
@[simp] theorem State.withTs_pen (s : State) (t : TscState) : (s.withTs t).pen = s.pen := rfl
@[simp] theorem State.withTs_ts (s : State) (t : TscState) : (s.withTs t).ts = t := rfl
@[simp] theorem State.withTs_ram (s : State) (t : TscState) : (s.withTs t).ram = s.ram := rfl
@[simp] theorem State.withTs_wasReset (s : State) (t : TscState) : (s.withTs t).wasReset = s.wasReset := rfl
@[simp] theorem State.withTs_input (s : State) (t : TscState) : (s.withTs t).input = s.input := rfl
@[simp] theorem State.withTs_reply (s : State) (t : TscState) : (s.withTs t).reply = .none := rfl
@[simp] theorem State.withTs_nextFree (s : State) (t : TscState) : (s.withTs t).nextFree = s.nextFree := rfl
@[simp] theorem State.withTs_params (s : State) (t : TscState) : (s.withTs t).params = s.params := rfl

@[simp] theorem State.withPen_cpu (s : State) (p : Pen) : (s.withPen p).cpu = s.cpu := rfl
@[simp] theorem State.withPen_div (s : State) (p : Pen) : (s.withPen p).div = s.div := rfl
@[simp] theorem State.withPen_pen (s : State) (p : Pen) : (s.withPen p).pen = p := rfl
@[simp] theorem State.withPen_ts (s : State) (p : Pen) : (s.withPen p).ts = s.ts := rfl
@[simp] theorem State.withPen_ram (s : State) (p : Pen) : (s.withPen p).ram = s.ram := rfl
@[simp] theorem State.withPen_wasReset (s : State) (p : Pen) : (s.withPen p).wasReset = s.wasReset := rfl
@[simp] theorem State.withPen_input (s : State) (p : Pen) : (s.withPen p).input = s.input := rfl
@[simp] theorem State.withPen_reply (s : State) (p : Pen) : (s.withPen p).reply = .none := rfl
@[simp] theorem State.withPen_nextFree (s : State) (p : Pen) : (s.withPen p).nextFree = s.nextFree := rfl
@[simp] theorem State.withPen_params (s : State) (p : Pen) : (s.withPen p).params = s.params := rfl

@[simp] theorem State.withInput_cpu (s : State) (l : List Input) : (s.withInput l).cpu = s.cpu := rfl
@[simp] theorem State.withInput_div (s : State) (l : List Input) : (s.withInput l).div = s.div := rfl
@[simp] theorem State.withInput_pen (s : State) (l : List Input) : (s.withInput l).pen = s.pen := rfl
@[simp] theorem State.withInput_ts (s : State) (l : List Input) : (s.withInput l).ts = s.ts := rfl
@[simp] theorem State.withInput_ram (s : State) (l : List Input) : (s.withInput l).ram = s.ram := rfl
@[simp] theorem State.withInput_wasReset (s : State) (l : List Input) : (s.withInput l).wasReset = s.wasReset := rfl
@[simp] theorem State.withInput_input (s : State) (l : List Input) : (s.withInput l).input = l := rfl
@[simp] theorem State.withInput_reply (s : State) (l : List Input) : (s.withInput l).reply = s.reply := rfl
@[simp] theorem State.withInput_nextFree (s : State) (l : List Input) : (s.withInput l).nextFree = s.nextFree := rfl
@[simp] theorem State.withInput_params (s : State) (l : List Input) : (s.withInput l).params = s.params := rfl

@[simp] theorem State.pokeRam_cpu (s : State) (a : BitVec 32) (b : Byte) : (s.pokeRam a b).cpu = s.cpu := rfl
@[simp] theorem State.pokeRam_div (s : State) (a : BitVec 32) (b : Byte) : (s.pokeRam a b).div = s.div := rfl
@[simp] theorem State.pokeRam_pen (s : State) (a : BitVec 32) (b : Byte) : (s.pokeRam a b).pen = s.pen := rfl
@[simp] theorem State.pokeRam_ts (s : State) (a : BitVec 32) (b : Byte) : (s.pokeRam a b).ts = s.ts := rfl
@[simp] theorem State.pokeRam_ram (s : State) (a : BitVec 32) (b : Byte) : (s.pokeRam a b).ram = s.ram.write a.toNat b := rfl
@[simp] theorem State.pokeRam_wasReset (s : State) (a : BitVec 32) (b : Byte) : (s.pokeRam a b).wasReset = s.wasReset := rfl
@[simp] theorem State.pokeRam_input (s : State) (a : BitVec 32) (b : Byte) : (s.pokeRam a b).input = s.input := rfl
@[simp] theorem State.pokeRam_reply (s : State) (a : BitVec 32) (b : Byte) : (s.pokeRam a b).reply = s.reply := rfl
@[simp] theorem State.pokeRam_nextFree (s : State) (a : BitVec 32) (b : Byte) : (s.pokeRam a b).nextFree = s.nextFree := rfl
@[simp] theorem State.pokeRam_params (s : State) (a : BitVec 32) (b : Byte) : (s.pokeRam a b).params = s.params := rfl

@[simp] theorem Cpu.writePhys_cpsr (c : Cpu) (r : PhysReg) (v : Word) : (c.writePhys r v).cpsr = c.cpsr := by
  cases r <;> rfl
@[simp] theorem Cpu.writePhys_spsr (c : Cpu) (r : PhysReg) (v : Word) : (c.writePhys r v).spsr = c.spsr := by
  cases r <;> rfl
@[simp] theorem Cpu.writePhys_lines (c : Cpu) (r : PhysReg) (v : Word) : (c.writePhys r v).lines = c.lines := by
  cases r <;> rfl
@[simp] theorem Cpu.writePhys_recheck (c : Cpu) (r : PhysReg) (v : Word) : (c.writePhys r v).recheck = c.recheck := by
  cases r <;> rfl
@[simp] theorem Cpu.writePhys_clock (c : Cpu) (r : PhysReg) (v : Word) : (c.writePhys r v).clock = c.clock := by
  cases r <;> rfl
@[simp] theorem Cpu.writePhys_hle (c : Cpu) (r : PhysReg) (v : Word) : (c.writePhys r v).hle = c.hle := by
  cases r <;> rfl
@[simp] theorem Cpu.writePhys_coproc (c : Cpu) (r : PhysReg) (v : Word) : (c.writePhys r v).coproc = c.coproc := by
  cases r <;> rfl

end Sys2Proof.Machine
end

