-- ==== Sys2Proof/Laws/Ops.lean ====
section
/-! SUPPORT. For each shared operation, what it can do: registers, RAM, status fields, the guards, exception
entry, the SWI paths, the return, the bus seam and the exchange. -/

namespace Sys2Proof.Machine

/-! ## Registers -/

@[simp] theorem RegFile.get_set_same (f : RegFile) (g : Gpr) (v : Word) : (f.set g v).get g = some v := by
  cases g <;> rfl

theorem RegFile.get_set_other (f : RegFile) {g h : Gpr} (v : Word) (hne : h ≠ g) :
    (f.set g v).get h = f.get h := by
  cases g <;> cases h <;> first | rfl | exact absurd rfl hne

@[simp] theorem SpsrFile.get_set_same (f : SpsrFile) (m : ExcMode) (v : Word) :
    (f.set m v).get m = some v := by
  cases m <;> rfl

theorem SpsrFile.get_set_other (f : SpsrFile) {m e : ExcMode} (v : Word) (hne : e ≠ m) :
    (f.set m v).get e = f.get e := by
  cases m <;> cases e <;> first | rfl | exact absurd rfl hne

theorem RegFile.get_set (f : RegFile) (g h : Gpr) (v : Word) :
    (f.set g v).get h = if h = g then some v else f.get h := by
  split
  · next e => rw [e, RegFile.get_set_same]
  · next e => exact RegFile.get_set_other f v e

theorem SpsrFile.get_set (f : SpsrFile) (m e : ExcMode) (v : Word) :
    (f.set m v).get e = if e = m then some v else f.get e := by
  split
  · next h => rw [h, SpsrFile.get_set_same]
  · next h => exact SpsrFile.get_set_other f v h

@[simp] theorem RegFile.get_filled (v : Option Word) (g : Gpr) : (RegFile.filled v).get g = v := by
  cases g <;> rfl

@[simp] theorem SpsrFile.get_filled (v : Option Word) (e : ExcMode) : (SpsrFile.filled v).get e = v := by
  cases e <;> rfl

/-- A register of the merged file: the first file's value if it holds one, else the second's. -/
@[simp] theorem RegFile.get_orElse (f f' : RegFile) (g : Gpr) :
    (f.orElse f').get g = (f.get g <|> f'.get g) := by
  cases g <;> rfl

@[simp] theorem SpsrFile.get_orElse (f f' : SpsrFile) (e : ExcMode) :
    (f.orElse f').get e = (f.get e <|> f'.get e) := by
  cases e <;> rfl

@[simp] theorem Cpu.readPhys_writePhys_same (c : Cpu) (r : PhysReg) (v : Word) :
    (c.writePhys r v).readPhys r = some v := by
  cases r <;> simp [Cpu.writePhys, Cpu.readPhys]

theorem Cpu.readPhys_writePhys_other (c : Cpu) {r q : PhysReg} (v : Word) (hne : q ≠ r) :
    (c.writePhys r v).readPhys q = c.readPhys q := by
  cases r <;> cases q <;> simp_all [Cpu.writePhys, Cpu.readPhys, RegFile.get_set_other]

/-! ## The guards -/

@[simp] theorem afterFirstReset_true {s : State} {k : Result} (h : s.wasReset = true) :
    afterFirstReset s k = k := by simp [afterFirstReset, h]

theorem afterFirstReset_next {s t : State} {k : Result} (h : afterFirstReset s k = .next t) :
    s.wasReset = true ∧ k = .next t := by
  unfold afterFirstReset at h
  split at h
  · exact ⟨‹_›, h⟩
  · cases h

theorem withMode_next {s t : State} {k : Mode → Result} (h : withMode s k = .next t) :
    ∃ m, psrMode s.cpu.cpsr = some m ∧ k m = .next t := by
  unfold withMode at h
  split at h
  · exact ⟨_, ‹_›, h⟩
  · cases h

theorem withSpsrMode_next {s t : State} {k : ExcMode → Result} (h : withSpsrMode s k = .next t) :
    ∃ m e, psrMode s.cpu.cpsr = some m ∧ spsrOf m = some e ∧ k e = .next t := by
  obtain ⟨m, hm, h⟩ := withMode_next h
  split at h
  · exact ⟨m, _, hm, ‹_›, h⟩
  · cases h

theorem withValue_next {v : Option Word} {f : Fault} {k : Word → Result} {t : State}
    (h : withValue v f k = .next t) : ∃ w, v = some w ∧ k w = .next t := by
  unfold withValue at h
  split at h
  · exact ⟨_, rfl, h⟩
  · cases h

/-! ## Emulated RAM -/

theorem Memory.read_consByte (a b : Nat) (v : Byte) (t : Memory) (ht : t.read a = ramUnlisted) :
    (Memory.consByte a v t).read b = if b = a then v else t.read b := by
  unfold Memory.consByte
  by_cases hv : v = ramUnlisted
  · by_cases hb : b = a
    · subst hb; simp [hv, ht]
    · simp [hv, hb]
  · by_cases hb : b = a
    · subst hb; simp [hv, Memory.read]
    · simp [hv, Memory.read, hb, Ne.symm hb]

/-- Below the lowest listed address a canonical memory reads as unlisted. -/
theorem Memory.read_of_wfAbove {l a : Nat} {m : Memory} (h : Memory.wfAbove (some l) m = true)
    (ha : a ≤ l) : m.read a = ramUnlisted := by
  induction m generalizing l with
  | nil => rfl
  | cons c t ih =>
    obtain ⟨x, b⟩ := c
    simp only [Memory.wfAbove, Bool.and_eq_true, decide_eq_true_eq] at h
    have hx : x ≠ a := by omega
    simp only [Memory.read, hx, if_false]
    exact ih h.2 (by omega)

theorem Memory.wfAbove_weaken {l l' : Nat} {m : Memory} (h : Memory.wfAbove (some l) m = true)
    (hl : l' ≤ l) : Memory.wfAbove (some l') m = true := by
  cases m with
  | nil => rfl
  | cons c t =>
    simp only [Memory.wfAbove, Bool.and_eq_true, decide_eq_true_eq] at h ⊢
    exact ⟨⟨⟨by omega, h.1.1.2⟩, h.1.2⟩, h.2⟩

theorem Memory.wfAbove_consByte {lo : Option Nat} {a : Nat} {v : Byte} {t : Memory}
    (hlo : ∀ l, lo = some l → l < a) (ha : a < 2 ^ 32) (ht : Memory.wfAbove (some a) t = true) :
    Memory.wfAbove lo (Memory.consByte a v t) = true := by
  unfold Memory.consByte
  split
  · cases lo with
    | some l => exact Memory.wfAbove_weaken ht (by have := hlo l rfl; omega)
    | none =>
      cases t with
      | nil => rfl
      | cons c t =>
        simp only [Memory.wfAbove, Bool.and_eq_true, decide_eq_true_eq] at ht ⊢
        exact ⟨⟨⟨trivial, ht.1.1.2⟩, ht.1.2⟩, ht.2⟩
  · cases lo with
    | some l => simp_all [Memory.wfAbove]
    | none => simp_all [Memory.wfAbove]

theorem Memory.wfAbove_write {lo : Option Nat} {m : Memory} {a : Nat} {v : Byte}
    (h : Memory.wfAbove lo m = true) (hlo : ∀ l, lo = some l → l < a) (ha : a < 2 ^ 32) :
    Memory.wfAbove lo (m.write a v) = true := by
  induction m generalizing lo with
  | nil => exact Memory.wfAbove_consByte hlo ha rfl
  | cons c t ih =>
    obtain ⟨x, b⟩ := c
    unfold Memory.write
    have ht : Memory.wfAbove (some x) t = true := by
      simp only [Memory.wfAbove, Bool.and_eq_true] at h
      exact h.2
    split
    · next hax =>
      refine Memory.wfAbove_consByte hlo ha ?_
      simp only [Memory.wfAbove, Bool.and_eq_true, decide_eq_true_eq] at h ⊢
      exact ⟨⟨⟨hax, h.1.1.2⟩, h.1.2⟩, h.2⟩
    · split
      · next hax => subst hax; exact Memory.wfAbove_consByte hlo ha ht
      · next h1 h2 =>
        have hx : x < a := by omega
        simp only [Memory.wfAbove, Bool.and_eq_true, decide_eq_true_eq] at h ⊢
        exact ⟨⟨⟨h.1.1.1, h.1.1.2⟩, h.1.2⟩, ih ht (by rintro l ⟨⟩; exact hx)⟩

/-- Every write keeps the canonical form. -/
theorem Memory.wf_write {m : Memory} {a : Nat} (v : Byte) (h : m.wf = true) (ha : a < 2 ^ 32) :
    (m.write a v).wf = true :=
  Memory.wfAbove_write h (by simp) ha

theorem Memory.read_write_above {l : Option Nat} {m : Memory} (a b : Nat) (v : Byte)
    (h : Memory.wfAbove l m = true) : (m.write a v).read b = if b = a then v else m.read b := by
  induction m generalizing l with
  | nil =>
    unfold Memory.write
    exact Memory.read_consByte a b v [] rfl
  | cons c t ih =>
    obtain ⟨x, y⟩ := c
    have ht : Memory.wfAbove (some x) t = true := by
      simp only [Memory.wfAbove, Bool.and_eq_true] at h
      exact h.2
    unfold Memory.write
    split
    · next hax =>
      refine Memory.read_consByte a b v _ ?_
      have hxa : x ≠ a := by omega
      simp only [Memory.read, hxa, if_false]
      exact Memory.read_of_wfAbove ht (by omega)
    · split
      · next hax =>
        subst hax
        rw [Memory.read_consByte a b v t (Memory.read_of_wfAbove ht (le_refl a))]
        by_cases hb : b = a
        · simp [hb]
        · have hab : a ≠ b := fun e => hb e.symm
          simp [hb, Memory.read, hab]
      · next h1 h2 =>
        by_cases hxb : x = b
        · have hba : b ≠ a := by omega
          simp [Memory.read, hxb, hba]
        · simp only [Memory.read, hxb, if_false]
          exact ih ht

/-- A read after a write: the written byte at its address, the old byte elsewhere. -/
theorem Memory.read_write {m : Memory} (a b : Nat) (v : Byte) (h : m.wf = true) :
    (m.write a v).read b = if b = a then v else m.read b :=
  Memory.read_write_above a b v h

theorem State.reset_ram_wf : State.reset.ram.wf = true := rfl

end Sys2Proof.Machine
end

