-- ==== Sys2Proof/Laws/Exceptions.lean ====
section
/-! SUPPORT. The status an entry leaves, field by field, and what exception entry, the SWI paths, the return
and reset can do. -/

namespace Sys2Proof.Machine

theorem entryPsr_upper (k : Kind) (w : Word) {j : Nat} (h8 : 8 ≤ j) (h32 : j < 32) :
    (entryPsr k w).getLsbD j = w.getLsbD j := by
  cases k <;> interval_cases j <;>
    simp [entryPsr, kindMasksFiq, psrSetF, psrSetI, psrSetM, psrClearT, modeCode, modeOfExc, kindMode]

@[simp] theorem entryPsr_I (k : Kind) (w : Word) : psrI (entryPsr k w) = true := by
  cases k <;>
    simp [psrI, entryPsr, kindMasksFiq, psrSetF, psrSetI, psrSetM, psrClearT, modeCode, modeOfExc,
      kindMode]

@[simp] theorem entryPsr_F (k : Kind) (w : Word) :
    psrF (entryPsr k w) = (kindMasksFiq k || psrF w) := by
  cases k <;>
    simp [psrF, entryPsr, kindMasksFiq, psrSetF, psrSetI, psrSetM, psrClearT, modeCode, modeOfExc,
      kindMode]

@[simp] theorem entryPsr_T (k : Kind) (w : Word) : psrT (entryPsr k w) = false := by
  cases k <;>
    simp [psrT, entryPsr, kindMasksFiq, psrSetF, psrSetI, psrSetM, psrClearT, modeCode, modeOfExc,
      kindMode]

theorem entryPsr_M (k : Kind) (w : Word) :
    psrM (entryPsr k w) = modeCode (modeOfExc (kindMode k)) := by
  apply BitVec.eq_of_getLsbD_eq
  intro j hj
  cases k <;> interval_cases j <;>
    simp [psrM, entryPsr, kindMasksFiq, psrSetF, psrSetI, psrSetM, psrClearT, modeCode, modeOfExc,
      kindMode]

@[simp] theorem modeOfCode_modeCode (m : Mode) : modeOfCode (modeCode m) = some m := by
  cases m <;> rfl

theorem modeCode_of_modeOfCode {c : BitVec 5} {m : Mode} (h : modeOfCode c = some m) :
    modeCode m = c := by
  unfold modeOfCode at h
  repeat' split at h
  all_goals cases h
  all_goals simp_all [modeCode]

@[simp] theorem entryPsr_mode (k : Kind) (w : Word) :
    psrMode (entryPsr k w) = some (modeOfExc (kindMode k)) := by
  simp [psrMode, entryPsr_M]

@[simp] theorem spsrOf_modeOfExc (e : ExcMode) : spsrOf (modeOfExc e) = some e := by
  cases e <;> rfl

theorem modeCode_modeOfExc (e : ExcMode) : modeCode (modeOfExc e) = excCode e := by
  cases e <;> rfl

theorem view14_modeOfExc (e : ExcMode) : view (modeOfExc e) 14 = .gpr (r14Of e) := by
  cases e <;> rfl

/-- A full entry leaves what R265 to R268 say, in terms of the kind's tables (R93-R95). -/
theorem enterException_entered (k : Kind) (s : State) :
    Entered (kindMode k) (r14Of (kindMode k)) (returnAddress k s.cpu) (BitVec.ofNat 32 (kindOrdinal k * 4))
      (kindMasksFiq k) s (enterException k s) where
  upper _ h8 h32 := entryPsr_upper k _ h8 h32
  maskI := entryPsr_I k _
  maskF := entryPsr_F k _
  width := entryPsr_T k _
  mode := (entryPsr_M k _).trans (modeCode_modeOfExc _)
  saved := SpsrFile.get_set_same _ _ _
  otherSpsr _ h := SpsrFile.get_set_other _ _ h
  link := RegFile.get_set_same _ _ _
  otherReg _ h := RegFile.get_set_other _ _ h
  pc := rfl
  clock := rfl
  lines := rfl
  recheck := rfl
  hle := rfl
  coproc := rfl
  div := rfl
  pen := rfl
  ts := rfl
  ram := rfl
  wasReset := rfl
  input := rfl
  params := rfl

@[simp] theorem enterException_reply (k : Kind) (s : State) : (enterException k s).reply = .none := rfl

theorem dispatchKind_next {k : Kind} {s t : State} (h : dispatchKind k s = .next t) :
    s.wasReset = true ∧ t = enterException k s := by
  obtain ⟨hr, h⟩ := afterFirstReset_next h
  cases h
  exact ⟨hr, rfl⟩

/-- What a software interrupt can do: the full entry when no hook is installed, else the hook's path, which
has ended with a valid mode. -/
theorem dispatchSwi_next {imm8 : Byte} {s t : State} (h : dispatchSwi imm8 s = .next t) :
    s.wasReset = true ∧
      ((s.cpu.hle[imm8.toNat]'imm8.isLt = none ∧ t = enterException .softwareInterrupt s) ∨
      (∃ k m, s.cpu.hle[imm8.toNat]'imm8.isLt = some k ∧ psrMode (hookExitCpu k s).cpsr = some m ∧
        t = { s with cpu := hookExitCpu k s, nextFree := s.nextFree + 1, reply := .none })) := by
  obtain ⟨hr, h⟩ := afterFirstReset_next h
  refine ⟨hr, ?_⟩
  split at h
  · next k hk =>
    unfold runHook at h
    split at h
    · cases h
      exact .inr ⟨k, _, hk, ‹_›, rfl⟩
    · cases h
  · cases h
    exact .inl ⟨‹_›, rfl⟩

/-- What the return half of a trap can do. -/
theorem restoreCpsr_next {s t : State} (h : restoreCpsr s = .next t) :
    ∃ m e v m2, psrMode s.cpu.cpsr = some m ∧ spsrOf m = some e ∧ s.cpu.spsr.get e = some v ∧
      psrMode v = some m2 ∧ t = s.withCpu { s.cpu with cpsr := v } := by
  obtain ⟨m, e, hm, he, h⟩ := withSpsrMode_next h
  obtain ⟨v, hv, h⟩ := withValue_next h
  split at h
  · cases h
    exact ⟨m, e, v, _, hm, he, hv, ‹_›, rfl⟩
  · cases h

/-- What a dispatch point can do (R280). -/
theorem execDispatchPoint_next {s t : State} (h : execDispatchPoint s = .next t) :
    s.wasReset = true ∧
      let s0 := s.withCpu { s.cpu with recheck := false }
      t = s0.withReply .halted ∨ t = s0.withReply .run ∨
        t = (enterException .fiq s0).withReply (.taken .fiq) ∨
        t = (enterException .irq s0).withReply (.taken .irq) := by
  obtain ⟨hr, h⟩ := afterFirstReset_next h
  refine ⟨hr, ?_⟩
  simp only at h
  split at h
  · cases h; exact .inl rfl
  · split at h
    · cases h; exact .inr (.inr (.inl rfl))
    · split at h
      · cases h; exact .inr (.inr (.inr rfl))
      · cases h; exact .inr (.inl rfl)

end Sys2Proof.Machine
end

