-- ==== Sys2Proof/Laws/PerInstr.lean ====
section
/-! SUPPORT. Statements for all operations, one lemma per constructor: the frame of every operation holds at
least its code and fits the longest frame. -/

namespace Sys2Proof.Laws

/-- The frame of an operation is not empty and is at most `maxFrame` bytes. -/
def FrameFits.Statement (i : Instr) : Prop := 0 < (encode i).length ∧ (encode i).length ≤ maxFrame

@[simp] theorem le32_length (v : BitVec 32) : (le32 v).length = 4 := rfl

@[simp] theorem le64_length (v : BitVec 64) : (le64 v).length = 8 := rfl

@[simp] theorem encInt_length (n : Int) : (encInt n).length = 8 := rfl

@[simp] theorem encAccess_length (acc : BusAccess) : (encAccess acc).length = 13 := rfl

theorem encOptId_length (c : Option (BitVec 32)) : (encOptId c).length ≤ 5 := by
  cases c <;> simp [encOptId, le32]

theorem FrameFits.readReg (k : BitVec 4) : FrameFits.Statement (.readReg k) := by
  simp [FrameFits.Statement, encode, maxFrame]

theorem FrameFits.writeReg (k : BitVec 4) (v : Word) : FrameFits.Statement (.writeReg k v) := by
  simp [FrameFits.Statement, encode, maxFrame]

theorem FrameFits.readCpsr : FrameFits.Statement .readCpsr := by
  simp [FrameFits.Statement, encode, maxFrame]

theorem FrameFits.writeCpsr (v : Word) : FrameFits.Statement (.writeCpsr v) := by
  simp [FrameFits.Statement, encode, maxFrame]

theorem FrameFits.readPhys (r : PhysReg) : FrameFits.Statement (.readPhys r) := by
  simp [FrameFits.Statement, encode, maxFrame]

theorem FrameFits.writePhys (r : PhysReg) (v : Word) : FrameFits.Statement (.writePhys r v) := by
  simp [FrameFits.Statement, encode, maxFrame]

theorem FrameFits.regSpsr : FrameFits.Statement .regSpsr := by
  simp [FrameFits.Statement, encode, maxFrame]

theorem FrameFits.writeSpsr (v : Word) : FrameFits.Statement (.writeSpsr v) := by
  simp [FrameFits.Statement, encode, maxFrame]

theorem FrameFits.setSwiHle (n : Int) (hook : Option HookId) : FrameFits.Statement (.setSwiHle n hook) := by
  have h := encOptId_length hook
  simp [FrameFits.Statement, encode, maxFrame]
  omega

theorem FrameFits.setCoprocessor (c : Option CoprocId) : FrameFits.Statement (.setCoprocessor c) := by
  have h := encOptId_length c
  simp [FrameFits.Statement, encode, maxFrame]
  omega

theorem FrameFits.setLine (line : Line) (asserting : Bool) : FrameFits.Statement (.setLine line asserting) := by
  simp [FrameFits.Statement, encode, maxFrame]

theorem FrameFits.advanceClock (n : DWord) : FrameFits.Statement (.advanceClock n) := by
  simp [FrameFits.Statement, encode, maxFrame]

theorem FrameFits.readClock : FrameFits.Statement .readClock := by
  simp [FrameFits.Statement, encode, maxFrame]

theorem FrameFits.dispatchReset : FrameFits.Statement .dispatchReset := by
  simp [FrameFits.Statement, encode, maxFrame]

theorem FrameFits.dispatchUndefined : FrameFits.Statement .dispatchUndefined := by
  simp [FrameFits.Statement, encode, maxFrame]

theorem FrameFits.dispatchSoftwareInterrupt (imm8 : Byte) : FrameFits.Statement (.dispatchSoftwareInterrupt imm8) := by
  simp [FrameFits.Statement, encode, maxFrame]

theorem FrameFits.dispatchPrefetchAbort : FrameFits.Statement .dispatchPrefetchAbort := by
  simp [FrameFits.Statement, encode, maxFrame]

theorem FrameFits.dispatchDataAbort : FrameFits.Statement .dispatchDataAbort := by
  simp [FrameFits.Statement, encode, maxFrame]

theorem FrameFits.dispatchAddressOverflow : FrameFits.Statement .dispatchAddressOverflow := by
  simp [FrameFits.Statement, encode, maxFrame]

theorem FrameFits.dispatchIrq : FrameFits.Statement .dispatchIrq := by
  simp [FrameFits.Statement, encode, maxFrame]

theorem FrameFits.dispatchFiq : FrameFits.Statement .dispatchFiq := by
  simp [FrameFits.Statement, encode, maxFrame]

theorem FrameFits.dispatchPoint : FrameFits.Statement .dispatchPoint := by
  simp [FrameFits.Statement, encode, maxFrame]

theorem FrameFits.restoreCpsrFromSpsr : FrameFits.Statement .restoreCpsrFromSpsr := by
  simp [FrameFits.Statement, encode, maxFrame]

theorem FrameFits.reset : FrameFits.Statement .reset := by
  simp [FrameFits.Statement, encode, maxFrame]

theorem FrameFits.busWriteDivcnt (acc : BusAccess) (v : DWord) : FrameFits.Statement (.busWriteDivcnt acc v) := by
  simp [FrameFits.Statement, encode, maxFrame]

theorem FrameFits.busWriteDivNumer (acc : BusAccess) (v : DWord) : FrameFits.Statement (.busWriteDivNumer acc v) := by
  simp [FrameFits.Statement, encode, maxFrame]

theorem FrameFits.busWriteDivDenom (acc : BusAccess) (v : DWord) : FrameFits.Statement (.busWriteDivDenom acc v) := by
  simp [FrameFits.Statement, encode, maxFrame]

theorem FrameFits.busWriteDivResult (reg : ResultReg) (acc : BusAccess) (v : DWord) : FrameFits.Statement (.busWriteDivResult reg acc v) := by
  simp [FrameFits.Statement, encode, maxFrame]

theorem FrameFits.busReadDivcnt (acc : BusAccess) : FrameFits.Statement (.busReadDivcnt acc) := by
  simp [FrameFits.Statement, encode, maxFrame]

theorem FrameFits.busReadDivData (reg : DataReg) (acc : BusAccess) : FrameFits.Statement (.busReadDivData reg acc) := by
  simp [FrameFits.Statement, encode, maxFrame]

theorem FrameFits.beginTransfer : FrameFits.Statement .beginTransfer := by
  simp [FrameFits.Statement, encode, maxFrame]

theorem FrameFits.exchange (m : Byte) : FrameFits.Statement (.exchange m) := by
  simp [FrameFits.Statement, encode, maxFrame]

theorem FrameFits.endTransfer : FrameFits.Statement .endTransfer := by
  simp [FrameFits.Statement, encode, maxFrame]

theorem FrameFits.setPen (down : Bool) (x y : Int) : FrameFits.Statement (.setPen down x y) := by
  simp [FrameFits.Statement, encode, maxFrame]

theorem FrameFits.tscNonstart (ignored : BitVec 7) : FrameFits.Statement (.tscNonstart ignored) := by
  simp [FrameFits.Statement, encode, maxFrame]

theorem FrameFits.tscCmdCh0Midscale (mode8 ref : Bool) (pd : BitVec 2) : FrameFits.Statement (.tscCmdCh0Midscale mode8 ref pd) := by
  simp [FrameFits.Statement, encode, maxFrame]

theorem FrameFits.tscCmdCh1Y (mode8 ref : Bool) (pd : BitVec 2) : FrameFits.Statement (.tscCmdCh1Y mode8 ref pd) := by
  simp [FrameFits.Statement, encode, maxFrame]

theorem FrameFits.tscCmdCh2Unimpl (mode8 ref : Bool) (pd : BitVec 2) : FrameFits.Statement (.tscCmdCh2Unimpl mode8 ref pd) := by
  simp [FrameFits.Statement, encode, maxFrame]

theorem FrameFits.tscCmdCh3Unimpl (mode8 ref : Bool) (pd : BitVec 2) : FrameFits.Statement (.tscCmdCh3Unimpl mode8 ref pd) := by
  simp [FrameFits.Statement, encode, maxFrame]

theorem FrameFits.tscCmdCh4Unimpl (mode8 ref : Bool) (pd : BitVec 2) : FrameFits.Statement (.tscCmdCh4Unimpl mode8 ref pd) := by
  simp [FrameFits.Statement, encode, maxFrame]

theorem FrameFits.tscCmdCh5X (mode8 ref : Bool) (pd : BitVec 2) : FrameFits.Statement (.tscCmdCh5X mode8 ref pd) := by
  simp [FrameFits.Statement, encode, maxFrame]

theorem FrameFits.tscCmdCh6Unimpl (mode8 ref : Bool) (pd : BitVec 2) : FrameFits.Statement (.tscCmdCh6Unimpl mode8 ref pd) := by
  simp [FrameFits.Statement, encode, maxFrame]

theorem FrameFits.tscCmdCh7Unimpl (mode8 ref : Bool) (pd : BitVec 2) : FrameFits.Statement (.tscCmdCh7Unimpl mode8 ref pd) := by
  simp [FrameFits.Statement, encode, maxFrame]

theorem FrameFits.swiArm (cond : BitVec 4) (imm24 : BitVec 24) : FrameFits.Statement (.swiArm cond imm24) := by
  simp [FrameFits.Statement, encode, maxFrame]

theorem FrameFits.swiThumb (imm8 : Byte) : FrameFits.Statement (.swiThumb imm8) := by
  simp [FrameFits.Statement, encode, maxFrame]

end Sys2Proof.Laws
end

