-- ==== Sys2Proof/Laws/Units.lean ====
section
/-! SUPPORT. The bus seam and the exchange: what each can do, and that the two spellings of an access the
statements and the model use agree. -/

namespace Sys2Proof.Machine

theorem busAccess_next {m : DivMap} {r : DivReg} {acc : BusAccess} {k : Result} {t : State}
    (h : busAccess m r acc k = .next t) : k = .next t := by
  unfold busAccess at h
  simp only at h
  repeat' split at h
  all_goals first | exact h | cases h

theorem sizeBytes_pos (z : AccessSize) : 0 < sizeBytes z := by
  cases z <;> decide

theorem mem_divRegs (r : DivReg) : r ∈ divRegs := by
  cases r <;> simp [divRegs]

/-- What a well-formed map says of one register: it ends inside its bank. -/
theorem DivMap.stop_le {m : DivMap} (h : m.wf = true) (r : DivReg) : m.stop r ≤ 2 ^ 32 := by
  have := List.all_eq_true.mp h r (mem_divRegs r)
  simp only [Bool.and_eq_true, decide_eq_true_eq] at this
  exact this.1

/-- What a well-formed map says of two registers: their bytes are disjoint. -/
theorem DivMap.disjoint {m : DivMap} (h : m.wf = true) (r q : DivReg) :
    q = r ∨ m.stop q ≤ m.start r ∨ m.stop r ≤ m.start q := by
  have := List.all_eq_true.mp h r (mem_divRegs r)
  simp only [Bool.and_eq_true] at this
  have := List.all_eq_true.mp this.2 q (mem_divRegs q)
  simpa [or_assoc] using this

/-- An access lies inside at most one register of a well-formed map (R61). -/
theorem insideReg_unique {m : DivMap} {a n : Nat} {q r : DivReg} (h : m.wf = true) (hn : 0 < n)
    (hq : insideReg m a n q = true) (hr : insideReg m a n r = true) : q = r := by
  simp only [insideReg, Bool.and_eq_true, decide_eq_true_eq] at hq hr
  have := DivMap.disjoint h r q
  rcases this with h | h | h
  · exact h
  · omega
  · omega

theorem insideReg_of_inside {m : DivMap} {b : Int} {a : BitVec 32} {n : Nat} {r : DivReg}
    (h : Inside m b a n r) : insideReg m a.toNat n r = true := by
  simp [insideReg, DivMap.start, DivMap.stop, h.2.1, h.2.2]

/-- An access inside some register resolves, to a register it lies inside. -/
theorem busResolve_some {m : DivMap} {b : Int} {a : BitVec 32} {n : Nat} {r : DivReg}
    (h : Inside m b a n r) : ∃ q, busResolve m b a n = some q ∧ insideReg m a.toNat n q = true := by
  unfold busResolve
  rw [if_pos h.1]
  cases hf : divRegs.find? (insideReg m a.toNat n) with
  | none => exact absurd (insideReg_of_inside h) (List.find?_eq_none.mp hf r (mem_divRegs r))
  | some q => exact ⟨q, rfl, List.find?_some hf⟩

theorem busResolve_of_inside {m : DivMap} {b : Int} {a : BitVec 32} {n : Nat} {r : DivReg}
    (hm : m.wf = true) (hn : 0 < n) (h : Inside m b a n r) : busResolve m b a n = some r := by
  obtain ⟨q, hq, hi⟩ := busResolve_some h
  rw [hq, insideReg_unique hm hn hi (insideReg_of_inside h)]

theorem busResolve_none {m : DivMap} {b : Int} {a : BitVec 32} {n : Nat} (h : ∀ q, ¬ Inside m b a n q) :
    busResolve m b a n = none := by
  unfold busResolve
  split
  · next hb =>
    rw [List.find?_eq_none]
    intro q _ hq
    simp only [insideReg, Bool.and_eq_true, decide_eq_true_eq] at hq
    exact h q ⟨hb, hq.1, hq.2⟩
  · rfl

theorem accessOffset_toNat {m : DivMap} {r : DivReg} {acc : BusAccess} (hm : m.wf = true)
    (h : Lanes m r acc) : (accessOffset m r acc).toNat = (m.offset r).toNat + acc.disp.toNat := by
  have h1 := DivMap.stop_le hm r
  have h2 := h.2.1
  have h3 := sizeBytes_pos acc.size
  unfold DivMap.stop at h1
  unfold accessOffset
  rw [BitVec.toNat_add, Nat.mod_eq_of_lt (by omega)]

theorem inside_of_lanes {m : DivMap} {r : DivReg} {acc : BusAccess} (hm : m.wf = true)
    (h : Lanes m r acc) : Inside m acc.bank (accessOffset m r acc) (sizeBytes acc.size) r := by
  have h1 := accessOffset_toNat hm h
  obtain ⟨hb, h2, _⟩ := h
  exact ⟨hb, by omega, by omega⟩

/-- An aligned access inside its register passes every check of the seam. -/
theorem busAccess_of_lanes {m : DivMap} {r : DivReg} {acc : BusAccess} (k : Result) (hm : m.wf = true)
    (h : Lanes m r acc) : busAccess m r acc k = k := by
  unfold busAccess
  simp [busResolve_of_inside hm (sizeBytes_pos _) (inside_of_lanes hm h), busAligned,
    accessOffset_toNat hm h, h.2.2]

theorem busAccess_unmapped {m : DivMap} {r : DivReg} {acc : BusAccess} (k : Result)
    (h : ∀ q, ¬ Inside m acc.bank (accessOffset m r acc) (sizeBytes acc.size) q) :
    busAccess m r acc k =
      .fault (.busUnmapped acc.bank (accessOffset m r acc) (sizeBytes acc.size)) := by
  unfold busAccess
  simp only [busResolve_none h]

theorem busAccess_misaligned {m : DivMap} {r q : DivReg} {acc : BusAccess} (k : Result)
    (h : Inside m acc.bank (accessOffset m r acc) (sizeBytes acc.size) q)
    (ha : (accessOffset m r acc).toNat % sizeBytes acc.size ≠ 0) :
    busAccess m r acc k =
      .fault (.busMisaligned acc.bank (accessOffset m r acc) (sizeBytes acc.size)) := by
  obtain ⟨q', hq, -⟩ := busResolve_some h
  unfold busAccess
  simp [hq, busAligned, ha]

/-- An aligned access inside another register is not this register's operation (log 8). -/
theorem busAccess_other {m : DivMap} {r q : DivReg} {acc : BusAccess} (k : Result) (hm : m.wf = true)
    (hq : q ≠ r) (h : Inside m acc.bank (accessOffset m r acc) (sizeBytes acc.size) q)
    (ha : (accessOffset m r acc).toNat % sizeBytes acc.size = 0) :
    busAccess m r acc k = .refused .otherRegister := by
  unfold busAccess
  simp [busResolve_of_inside hm (sizeBytes_pos _) h, busAligned, ha, hq]

/-- The bits of a masked write (R65). -/
theorem getLsbD_busMerge {w : Nat} (old romask lanes v : BitVec w) {j : Nat} (hj : j < w) :
    (busMerge old romask lanes v).getLsbD j =
      if lanes.getLsbD j = true ∧ romask.getLsbD j = false then v.getLsbD j else old.getLsbD j := by
  simp only [busMerge, BitVec.getLsbD_or, BitVec.getLsbD_and, BitVec.getLsbD_not, hj, decide_true,
    Bool.true_and]
  cases old.getLsbD j <;> cases romask.getLsbD j <;> cases lanes.getLsbD j <;> cases v.getLsbD j <;> rfl

/-- What an exchange can do (R211). -/
theorem exchangeByte_next {m : Byte} {s t : State} (h : exchangeByte m s = .next t) :
    s.ts ≠ .closed ∧
      t = (s.withTs (exchangeNext s.ts m s.pen s.params.cal s.ram)).withReply (.byte (exchangeOut s.ts)) := by
  unfold exchangeByte at h
  split at h
  · cases h
  · cases h; exact ⟨‹_›, rfl⟩

theorem exchangeByte_open (m : Byte) {s : State} (h : s.ts ≠ .closed) :
    exchangeByte m s =
      .next ((s.withTs (exchangeNext s.ts m s.pen s.params.cal s.ram)).withReply (.byte (exchangeOut s.ts))) := by
  simp [exchangeByte, h]

end Sys2Proof.Machine
end

