-- ==== Sys2Proof/Laws/Step.lean ====
section
/-! SUPPORT. Everything an operation can do when it answers a next state, said once: `Effect`, and
`exec_effect`, which later proofs take apart with `cases` and need not unfold an arm. -/

namespace Sys2Proof.Machine

theorem divcntRomask_eq : divcntRomask = 0xFFFC := by decide

/-- A register with no writable bit keeps its value (R65). -/
theorem busMerge_readOnly (a b c : DWord) : busMerge a (romaskOf (some 0)) b c = a := by
  apply BitVec.eq_of_getLsbD_eq
  intro j hj
  have hm : (romaskOf (some (0 : DWord))).getLsbD j = true := by
    rw [romaskOf, BitVec.getLsbD_not]
    simp [hj]
  rw [getLsbD_busMerge _ _ _ _ hj, hm]
  simp

theorem busMerge_divcnt_reserved (a b c : BitVec 16) :
    busMerge a divcntRomask b c &&& 0xFFFC = a &&& 0xFFFC := by
  apply BitVec.eq_of_getLsbD_eq
  intro j hj
  rw [BitVec.getLsbD_and, BitVec.getLsbD_and, getLsbD_busMerge _ _ _ _ hj, divcntRomask_eq]
  by_cases hc : (0xFFFC#16).getLsbD j = true <;> simp [hc]

/-- What operation `i` does when it takes `s` to a next state, by shape. -/
inductive Effect : Instr → State → State → Prop where
  /-- A value is returned and nothing else changes. -/
  | returned {i s} (r : Reply) (hi : isReadOp i = true) : Effect i s { s with reply := r }
  /-- A full entry of a dispatched kind. -/
  | entered {i s} (k : Kind) (hi : dispatchedKind i = some k) (hr : s.wasReset = true) :
      Effect i s (enterException k s)
  /-- A SWI with no hook: the full entry. -/
  | swi {i s} (imm8 : Byte) (hi : swiImm i = some imm8) (hr : s.wasReset = true)
      (hh : s.cpu.hle[imm8.toNat]'imm8.isLt = none) : Effect i s (enterException .softwareInterrupt s)
  /-- A SWI with a hook, which has left a valid mode. -/
  | hooked {i s} (imm8 : Byte) (h : HookId) (m : Mode) (hi : swiImm i = some imm8)
      (hr : s.wasReset = true) (hh : s.cpu.hle[imm8.toNat]'imm8.isLt = some h)
      (hm : psrMode (hookExitCpu h s).cpsr = some m) :
      Effect i s { s with cpu := hookExitCpu h s, nextFree := s.nextFree + 1, reply := .none }
  /-- A dispatch point that takes nothing. -/
  | sampled {s} (r : Reply) (hr : s.wasReset = true) (hq : r = .halted ∨ r = .run) :
      Effect .dispatchPoint s ((s.withCpu { s.cpu with recheck := false }).withReply r)
  /-- A dispatch point that takes an interrupt. -/
  | taken {s} (k : Kind) (hr : s.wasReset = true) (hk : k = .fiq ∨ k = .irq) :
      Effect .dispatchPoint s
        ((enterException k (s.withCpu { s.cpu with recheck := false })).withReply (.taken k))
  /-- The return half of a trap. -/
  | restored {s} (m : Mode) (e : ExcMode) (v : Word) (m2 : Mode) (hr : s.wasReset = true)
      (hm : psrMode s.cpu.cpsr = some m) (he : spsrOf m = some e) (hv : s.cpu.spsr.get e = some v)
      (hm2 : psrMode v = some m2) :
      Effect .restoreCpsrFromSpsr s (s.withCpu { s.cpu with cpsr := v })
  /-- Reset. -/
  | reset {s} : Effect .reset s (resetBlock s)
  /-- A status write of a valid mode. -/
  | wroteCpsr {s} (v : Word) (m : Mode) (hr : s.wasReset = true) (hm : psrMode v = some m) :
      Effect (.writeCpsr v) s (s.withCpu { s.cpu with cpsr := v })
  /-- A register write through the visible view. -/
  | wroteReg {s} (k : BitVec 4) (v : Word) (m : Mode) (hr : s.wasReset = true)
      (hm : psrMode s.cpu.cpsr = some m) :
      Effect (.writeReg k v) s (s.withCpu (s.cpu.writePhys (view m k) v))
  /-- A register write by name. -/
  | wrotePhys {s} (r : PhysReg) (v : Word) (hr : s.wasReset = true) :
      Effect (.writePhys r v) s (s.withCpu (s.cpu.writePhys r v))
  /-- A saved-status write. -/
  | wroteSpsr {s} (v : Word) (m : Mode) (e : ExcMode) (hr : s.wasReset = true)
      (hm : psrMode s.cpu.cpsr = some m) (he : spsrOf m = some e) :
      Effect (.writeSpsr v) s (s.withCpu { s.cpu with spsr := s.cpu.spsr.set e v })
  /-- An entry of the hook table. -/
  | setHle {s} (n : Int) (hook : Option HookId) (hle : Vector (Option HookId) 256) :
      Effect (.setSwiHle n hook) s (s.withCpu { s.cpu with hle := hle })
  /-- The coprocessor configuration. -/
  | setCoproc {s} (c : Option CoprocId) :
      Effect (.setCoprocessor c) s (s.withCpu { s.cpu with coproc := c })
  /-- A line change. -/
  | setLine {s} (l : Line) (b : Bool) :
      Effect (.setLine l b) s (s.withCpu
        { s.cpu with
          lines := s.cpu.lines.change l b
          recheck := s.cpu.recheck || (b && !s.cpu.lines.has l) })
  /-- The clock advanced by the executor. -/
  | advanced {s} (n : DWord) (hr : s.wasReset = true) :
      Effect (.advanceClock n) s (s.withCpu { s.cpu with clock := s.cpu.clock + n })
  /-- A write of an input register of the divisor. -/
  | recomputed {i s} (d : Divisor) (hi : isDivisorOp i = true)
      (hd : d.cnt &&& 0xFFFC = s.div.cnt &&& 0xFFFC) : Effect i s (s.withDiv d.recompute)
  /-- A write of a result register of the divisor. -/
  | discarded {i s} (hi : isDivisorOp i = true) : Effect i s { s with reply := .none }
  /-- A transfer opened or closed. -/
  | transferred {i s} (t : TscState) (hi : i = .beginTransfer ∨ i = .endTransfer) :
      Effect i s (s.withTs t)
  /-- A byte exchanged. -/
  | exchanged {i s} (m : Byte) (hi : isTransferOp i = true) (ho : s.ts ≠ .closed) :
      Effect i s ((s.withTs (exchangeNext s.ts m s.pen s.params.cal s.ram)).withReply (.byte (exchangeOut s.ts)))
  /-- The pen state. -/
  | pen {s} (down : Bool) (x y : Int) :
      Effect (.setPen down x y) s (s.withPen { down := down, x := x, y := y })

theorem Effect.of_dispatchKind {i : Instr} {k : Kind} {s t : State} (hi : dispatchedKind i = some k)
    (h : dispatchKind k s = .next t) : Effect i s t := by
  obtain ⟨hr, rfl⟩ := dispatchKind_next h
  exact .entered k hi hr

theorem Effect.of_dispatchSwi {i : Instr} {n : Byte} {s t : State} (hi : swiImm i = some n)
    (h : dispatchSwi n s = .next t) : Effect i s t := by
  obtain ⟨hr, ⟨hh, rfl⟩ | ⟨k, m, hh, hm, rfl⟩⟩ := dispatchSwi_next h
  · exact .swi n hi hr hh
  · exact .hooked n k m hi hr hh hm

theorem Effect.of_exchangeByte {i : Instr} {m : Byte} {s t : State} (hi : isTransferOp i = true)
    (h : exchangeByte m s = .next t) : Effect i s t := by
  obtain ⟨ho, rfl⟩ := exchangeByte_next h
  exact .exchanged m hi ho

/-- Everything an operation can do when it answers a next state. -/
theorem exec_effect {i : Instr} {s t : State} (h : exec i s = .next t) : Effect i s t := by
  cases i
  case readReg k =>
    obtain ⟨-, h⟩ := afterFirstReset_next h
    obtain ⟨m, -, h⟩ := withMode_next h
    obtain ⟨v, -, h⟩ := withValue_next h
    cases h; exact .returned _ rfl
  case readPhys r =>
    obtain ⟨-, h⟩ := afterFirstReset_next h
    obtain ⟨v, -, h⟩ := withValue_next h
    cases h; exact .returned _ rfl
  case regSpsr =>
    obtain ⟨-, h⟩ := afterFirstReset_next h
    obtain ⟨m, e, -, -, h⟩ := withSpsrMode_next h
    obtain ⟨v, -, h⟩ := withValue_next h
    cases h; exact .returned _ rfl
  case readCpsr =>
    obtain ⟨-, h⟩ := afterFirstReset_next h
    cases h; exact .returned _ rfl
  case readClock =>
    obtain ⟨-, h⟩ := afterFirstReset_next h
    cases h; exact .returned _ rfl
  case busReadDivcnt acc => cases busAccess_next h; exact .returned _ rfl
  case busReadDivData reg acc => cases busAccess_next h; exact .returned _ rfl
  case writeReg k v =>
    obtain ⟨hr, h⟩ := afterFirstReset_next h
    obtain ⟨m, hm, h⟩ := withMode_next h
    cases h; exact .wroteReg k v m hr hm
  case writePhys r v =>
    obtain ⟨hr, h⟩ := afterFirstReset_next h
    cases h; exact .wrotePhys r v hr
  case writeSpsr v =>
    obtain ⟨hr, h⟩ := afterFirstReset_next h
    obtain ⟨m, e, hm, he, h⟩ := withSpsrMode_next h
    cases h; exact .wroteSpsr v m e hr hm he
  case writeCpsr v =>
    obtain ⟨hr, h⟩ := afterFirstReset_next h
    split at h
    · cases h; exact .wroteCpsr v _ hr ‹_›
    · cases h
  case setSwiHle n hook =>
    simp only [exec, execSetSwiHle] at h
    split at h
    · cases h; exact .setHle n hook _
    · cases h
  case setCoprocessor c => cases h; exact .setCoproc c
  case setLine l b => cases h; exact .setLine l b
  case advanceClock n =>
    obtain ⟨hr, h⟩ := afterFirstReset_next h
    cases h; exact .advanced n hr
  case dispatchPoint =>
    obtain ⟨hr, rfl | rfl | rfl | rfl⟩ := execDispatchPoint_next h
    · exact .sampled .halted hr (.inl rfl)
    · exact .sampled .run hr (.inr rfl)
    · exact .taken .fiq hr (.inl rfl)
    · exact .taken .irq hr (.inr rfl)
  case restoreCpsrFromSpsr =>
    obtain ⟨hr, h⟩ := afterFirstReset_next h
    obtain ⟨m, e, v, m2, hm, he, hv, hm2, rfl⟩ := restoreCpsr_next h
    exact .restored m e v m2 hr hm he hv hm2
  case reset => cases h; exact .reset
  case setPen down x y => cases h; exact .pen down x y
  case busWriteDivcnt acc v =>
    cases busAccess_next h
    exact .recomputed _ rfl (busMerge_divcnt_reserved _ _ _)
  case busWriteDivNumer acc v =>
    cases busAccess_next h
    apply Effect.recomputed <;> rfl
  case busWriteDivDenom acc v =>
    cases busAccess_next h
    apply Effect.recomputed <;> rfl
  case busWriteDivResult reg acc v =>
    have h := busAccess_next h
    cases reg <;> simp only [resultDivReg, dataRomask, busMerge_readOnly] at h <;> cases h <;>
      exact .discarded rfl
  case beginTransfer =>
    simp only [exec, execBeginTransfer] at h
    split at h <;> cases h
    exact .transferred _ (.inl rfl)
  case endTransfer =>
    simp only [exec, execEndTransfer] at h
    split at h <;> cases h
    exact .transferred _ (.inr rfl)
  all_goals first
    | exact .of_exchangeByte rfl h
    | exact .of_dispatchSwi rfl h
    | exact .of_dispatchKind rfl h

/-- The only operations that raise F_UNWRITTEN are reads, of the register or saved status they name (R24). -/
theorem exec_unwritten {i : Instr} {s : State} {r : RegName} (h : exec i s = .fault (.unwritten r)) :
    (∃ p, r = .phys p ∧ s.cpu.readPhys p = none) ∨ (∃ e, r = .spsr e ∧ s.cpu.spsr.get e = none) := by
  cases i <;>
    simp only [exec, execReadReg, execWriteReg, execReadCpsr, execWriteCpsr, execReadPhys, execWritePhys,
      execRegSpsr, execWriteSpsr, execAdvanceClock, execReadClock, execDispatchReset, execDispatchUndefined,
      execDispatchSoftwareInterrupt, execDispatchPrefetchAbort, execDispatchDataAbort,
      execDispatchAddressOverflow, execDispatchIrq, execDispatchFiq, execDispatchPoint,
      execRestoreCpsrFromSpsr, execSwiArm, execSwiThumb, execSetSwiHle, execSetCoprocessor, execSetLine,
      execReset, execBusWriteDivcnt, execBusWriteDivNumer, execBusWriteDivDenom, execBusWriteDivResult,
      execBusReadDivcnt, execBusReadDivData, execBeginTransfer, execExchange, execEndTransfer, execSetPen,
      execTscNonstart, execTscCmdCh0Midscale, execTscCmdCh1Y, execTscCmdCh2Unimpl, execTscCmdCh3Unimpl,
      execTscCmdCh4Unimpl, execTscCmdCh5X, execTscCmdCh6Unimpl, execTscCmdCh7Unimpl, afterFirstReset,
      withSpsrMode, withMode, withValue, restoreCpsr, runHook, dispatchKind, dispatchSwi, busAccess,
      exchangeByte] at h
  all_goals
    repeat' split at h
    all_goals
      cases h
      try first
        | exact .inl ⟨_, rfl, ‹_›⟩
        | exact .inr ⟨_, rfl, ‹_›⟩

end Sys2Proof.Machine
end

