-- ==== Sys2Proof/Tests/Slice0.lean ====
section
/-! SUPPORT. The model's own tests: ill-formed terms, one written-out frame or word per operation, vectors of
95_test_vectors.md (named in each docstring), and for every statement with hypotheses a state and operands
that meet them. -/

namespace Sys2Proof.Tests

open Sys2Proof Sys2Proof.Machine

/-! ## Ill-formed terms -/

/-- Integer operands beyond 64 bits (log 6). -/
theorem test_wf_integers :
    (Instr.setSwiHle (2 ^ 63) none).wellFormed = false ∧
    (Instr.setSwiHle (-2 ^ 63 - 1) none).wellFormed = false ∧
    (Instr.setPen true (2 ^ 63) 0).wellFormed = false ∧
    (Instr.setPen true 0 (-2 ^ 63 - 1)).wellFormed = false ∧
    (Instr.setSwiHle (-2 ^ 63) none).wellFormed = true := by decide

/-- Bank numbers beyond 64 bits (log 6), one for each bus operation, and the two numbers at the edge. -/
theorem test_wf_bus :
    (Instr.busWriteDivcnt { bank := 2 ^ 63, disp := 0, size := .b2 } 0).wellFormed = false ∧
    (Instr.busWriteDivNumer { bank := -2 ^ 63 - 1, disp := 0, size := .b8 } 0).wellFormed = false ∧
    (Instr.busWriteDivDenom { bank := 2 ^ 63, disp := 0, size := .b8 } 0).wellFormed = false ∧
    (Instr.busWriteDivResult .result { bank := 2 ^ 64, disp := 0, size := .b1 } 0).wellFormed = false ∧
    (Instr.busReadDivcnt { bank := 2 ^ 63, disp := 0, size := .b1 }).wellFormed = false ∧
    (Instr.busReadDivData .rem { bank := -2 ^ 64, disp := 0, size := .b4 }).wellFormed = false ∧
    (Instr.busReadDivData .rem { bank := -2 ^ 63, disp := 0xFFFFFFFF, size := .b4 }).wellFormed = true ∧
    (Instr.busReadDivData .rem { bank := 2 ^ 63 - 1, disp := 0, size := .b4 }).wellFormed = true := by decide

/-! ## Decoding: command codes of R119, command bytes of R113, the SWI words of R97 -/

theorem test_decode_registers :
    decode .port [0x01, 0x0E] = .ok (.readReg 14) ∧
    decode .port [0x02, 0x0F, 0x78, 0x56, 0x34, 0x12] = .ok (.writeReg 15 0x12345678) ∧
    decode .port [0x03] = .ok .readCpsr ∧
    decode .port [0x04, 0xD3, 0x00, 0x00, 0xF0] = .ok (.writeCpsr 0xF00000D3) ∧
    decode .port [0x05, 0x16] = .ok (.readPhys (.gpr .r13svc)) ∧
    decode .port [0x06, 0x1E, 0x00, 0x01, 0x00, 0x02] = .ok (.writePhys .pc 0x02000100) ∧
    decode .port [0x07] = .ok .regSpsr ∧
    decode .port [0x08, 0x1E, 0x00, 0x00, 0x00] = .ok (.writeSpsr 0x1E) := by decide

theorem test_decode_configuration :
    decode .port [0x09, 0xFF, 0x00, 0x00, 0x00, 0x00, 0x00, 0x00, 0x00, 0x01, 0x07, 0x00, 0x00, 0x00]
      = .ok (.setSwiHle 255 (some 7)) ∧
    decode .port [0x09, 0xFF, 0xFF, 0xFF, 0xFF, 0xFF, 0xFF, 0xFF, 0xFF, 0x00]
      = .ok (.setSwiHle (-1) none) ∧
    decode .port [0x0A, 0x01, 0x02, 0x00, 0x00, 0x00] = .ok (.setCoprocessor (some 2)) ∧
    decode .port [0x0B, 0x01, 0x01] = .ok (.setLine .irq true) ∧
    decode .port [0x0C, 0x05, 0x00, 0x00, 0x00, 0x00, 0x00, 0x00, 0x00] = .ok (.advanceClock 5) ∧
    decode .port [0x0D] = .ok .readClock := by decide

theorem test_decode_exceptions :
    decode .port [0x20] = .ok .dispatchReset ∧
    decode .port [0x21] = .ok .dispatchUndefined ∧
    decode .port [0x22, 0x06] = .ok (.dispatchSoftwareInterrupt 6) ∧
    decode .port [0x23] = .ok .dispatchPrefetchAbort ∧
    decode .port [0x24] = .ok .dispatchDataAbort ∧
    decode .port [0x25] = .ok .dispatchAddressOverflow ∧
    decode .port [0x26] = .ok .dispatchIrq ∧
    decode .port [0x27] = .ok .dispatchFiq ∧
    decode .port [0x28] = .ok .dispatchPoint ∧
    decode .port [0x29] = .ok .restoreCpsrFromSpsr ∧
    decode .port [0x2A] = .ok .reset := by decide

/-- A bus access is its displacement, its bank (here also bank -1) and its size (log 5, log 6). -/
theorem test_decode_divisor :
    decode .port [0x30, 0x01, 0x00, 0x00, 0x00, 0x00, 0x00, 0x00, 0x00, 0x00, 0x00, 0x00, 0x00, 0x00,
        0xFF, 0x00, 0x00, 0x00, 0x00, 0x00, 0x00, 0x00]
      = .ok (.busWriteDivcnt { bank := 0, disp := 1, size := .b1 } 0xFF) ∧
    decode .port [0x31, 0x04, 0x00, 0x00, 0x00, 0xFF, 0xFF, 0xFF, 0xFF, 0xFF, 0xFF, 0xFF, 0xFF, 0x02,
        0x01, 0x00, 0x00, 0x00, 0x00, 0x00, 0x00, 0x00]
      = .ok (.busWriteDivNumer { bank := -1, disp := 4, size := .b4 } 1) ∧
    decode .port [0x32, 0x00, 0x00, 0x00, 0x00, 0x00, 0x00, 0x00, 0x00, 0x00, 0x00, 0x00, 0x00, 0x03,
        0x03, 0x00, 0x00, 0x00, 0x00, 0x00, 0x00, 0x80]
      = .ok (.busWriteDivDenom { bank := 0, disp := 0, size := .b8 } 0x8000000000000003) ∧
    decode .port [0x33, 0x01, 0x00, 0x00, 0x00, 0x00, 0x00, 0x00, 0x00, 0x00, 0x00, 0x00, 0x00, 0x00, 0x03,
        0x00, 0x00, 0x00, 0x00, 0x00, 0x00, 0x00, 0x00]
      = .ok (.busWriteDivResult .rem { bank := 0, disp := 0, size := .b8 } 0) ∧
    decode .port [0x34, 0x00, 0x00, 0x00, 0x00, 0x00, 0x00, 0x00, 0x00, 0x00, 0x00, 0x00, 0x00, 0x01]
      = .ok (.busReadDivcnt { bank := 0, disp := 0, size := .b2 }) ∧
    decode .port [0x35, 0x02, 0x04, 0x00, 0x00, 0x00, 0x00, 0x00, 0x00, 0x00, 0x00, 0x00, 0x00, 0x00, 0x02]
      = .ok (.busReadDivData .result { bank := 0, disp := 4, size := .b4 }) := by decide

theorem test_decode_touchscreen :
    decode .port [0x40] = .ok .beginTransfer ∧
    decode .port [0x41, 0xD0] = .ok (.exchange 0xD0) ∧
    decode .port [0x42] = .ok .endTransfer ∧
    decode .port [0x43, 0x01, 0x55, 0x00, 0x00, 0x00, 0x00, 0x00, 0x00, 0x00,
        0xFE, 0xFF, 0xFF, 0xFF, 0xFF, 0xFF, 0xFF, 0xFF] = .ok (.setPen true 0x55 (-2)) ∧
    decode .tsc [0x7F] = .ok (.tscNonstart 0x7F) ∧
    decode .tsc [0x84] = .ok (.tscCmdCh0Midscale false true 0) ∧
    decode .tsc [0x90] = .ok (.tscCmdCh1Y false false 0) ∧
    decode .tsc [0xA4] = .ok (.tscCmdCh2Unimpl false true 0) ∧
    decode .tsc [0xB1] = .ok (.tscCmdCh3Unimpl false false 1) ∧
    decode .tsc [0xCA] = .ok (.tscCmdCh4Unimpl true false 2) ∧
    decode .tsc [0xD8] = .ok (.tscCmdCh5X true false 0) ∧
    decode .tsc [0xE3] = .ok (.tscCmdCh6Unimpl false false 3) ∧
    decode .tsc [0xFF] = .ok (.tscCmdCh7Unimpl true true 3) := by decide

/-- 0xEF060000 and 0xDF06 of program 2; a word that is not a SWI. -/
theorem test_decode_swi :
    decode .arm [0x00, 0x00, 0x06, 0xEF] = .ok (.swiArm 0xE 0x060000) ∧
    decode .thumb [0x06, 0xDF] = .ok (.swiThumb 0x06) ∧
    decode .arm [0x01, 0x03, 0xA0, 0xE3] = .error .notSwi := by decide

/-- Frames that are no operation: an unlisted code, a name, a register and a line out of range, a stray byte, a
frame cut short, and an access size and a bus register out of range. -/
theorem test_decode_refuses :
    decode .port [0x0E] = .error (.unlistedOpcode 0x0E) ∧
    decode .port [0x05, 0x1F] = .error (.badName 0x1F) ∧
    decode .port [0x01, 0x10] = .error (.badRegister 0x10) ∧
    decode .port [0x0B, 0x03, 0x01] = .error (.badLine 0x03) ∧
    decode .port [0x03, 0x01] = .error .trailingBytes ∧
    decode .port [0x04, 0x00] = .error .truncated ∧
    decode .port [0x34, 0x00, 0x00, 0x00, 0x00, 0x00, 0x00, 0x00, 0x00, 0x00, 0x00, 0x00, 0x00, 0x04]
      = .error (.badSize 0x04) ∧
    decode .port [0x33, 0x02] = .error (.badBusRegister 0x02) := by decide

/-! ## States the vectors start from -/

/-- At power-on, with draw 0. -/
def powered : State := State.powerOn Params.suggested 0 none

/-- After `Reset()` from power-on with draw 0 (R40's second column): the registers hold no value. -/
def fresh : State := State.afterReset Params.suggested 0

/-- The same with another CPSR. -/
def freshIn (cpsr : Word) : State := { fresh with cpu := { fresh.cpu with cpsr := cpsr } }

/-- After reset, with another CPSR. -/
def inMode (cpsr : Word) : State := { State.reset with cpu := { State.reset.cpu with cpsr := cpsr } }

/-- The start of section 2.2: PC and CPSR as given, CLOCK 0. -/
def at_ (pc cpsr : Word) : State :=
  { State.reset with cpu := { State.reset.cpu with pc := pc, cpsr := cpsr, clock := 0 } }

/-- The start of section 2.3: the lines and CPSR given, PC 0x02000200, RECHECK set. -/
def lined (fiq irq halt : Bool) (cpsr : Word) : State :=
  { State.reset with
    cpu :=
      { State.reset.cpu with
        pc := 0x02000200, cpsr := cpsr, recheck := true, lines := { fiq := fiq, irq := irq, halt := halt } } }

/-- The divisor with the inputs given and its results. -/
def dividing (mode : BitVec 16) (numer denom : DWord) : State :=
  { State.reset with
    div := ({ Divisor.zero with cnt := mode, numer := numer, denom := denom } : Divisor).recompute }

/-- The whole of a 64-bit register, and the whole of `DIVCNT`. -/
def whole : BusAccess := { bank := 0, disp := 0, size := .b8 }
def wholeCnt : BusAccess := { bank := 0, disp := 0, size := .b2 }

/-- Calibration set CAL-A at the addresses of `CAL_ADDR`. -/
def calA : Memory :=
  [(0x027FFCD9, 0x02), (0x027FFCDA, 0x80), (0x027FFCDB, 0x01), (0x027FFCDC, 0x20), (0x027FFCDD, 0x18),
   (0x027FFCDF, 0x0E), (0x027FFCE0, 0x80), (0x027FFCE1, 0x0E), (0x027FFCE2, 0xE0), (0x027FFCE3, 0xA8)]

/-- The touchscreen in a transfer state, with CAL-A and the pen of S2. -/
def touching (t : TscState) : State :=
  { State.reset with ts := t, ram := calA, pen := { down := true, x := 0x40, y := 0x30 } }

/-- With hook 7 installed at number 6. -/
def hooked : State :=
  { State.reset with cpu := { State.reset.cpu with hle := State.reset.cpu.hle.set 6 (some 7) } }

def regsOf (s : State) (i : Instr) : Option RegFile := (nextOf (exec i s)).map (·.cpu.regs)
def replyOf (s : State) (i : Instr) : Option Reply := (nextOf (exec i s)).map (·.reply)

/-- The entry a vector row lists: CPSR, the saved status and `r14` of the target mode, PC, CLOCK. -/
def entryOf (m : ExcMode) (s : State) (i : Instr) : Option (Word × Option Word × Option Word × Word × DWord) :=
  (nextOf (exec i s)).map fun t =>
    (t.cpu.cpsr, t.cpu.spsr.get m, t.cpu.regs.get (r14Of m), t.cpu.pc, t.cpu.clock)

/-! ## CPU port (section 2.1) -/

/-- P1 and P2. -/
theorem test_readReg :
    faultOf (exec (.readReg 0) fresh) = some (.unwritten (.phys (.gpr .r0))) ∧
    replyOf fresh (.readReg 14) = some (.word 0) := by decide

/-- P3, from PC 0x02000100: no pipeline offset. -/
theorem test_readReg_pc : replyOf (at_ 0x02000100 0x10) (.readReg 15) = some (.word 0x02000100) := by decide

/-- P4 and the FIQ half of P6. -/
theorem test_writeReg :
    (regsOf State.reset (.writeReg 13 0x03007FE0)).map (·.r13svc) = some (some 0x03007FE0) ∧
    (regsOf (freshIn 0xD1) (.writeReg 8 5)).map (fun f => (f.r8usr, f.r8fiq)) = some (none, some 5) := by
  decide

/-- Program 3, step 4. -/
theorem test_writeReg_pc :
    (nextOf (exec (.writeReg 15 0x02000100) State.reset)).map (·.cpu.pc) = some 0x02000100 := by decide

theorem test_readCpsr : replyOf (inMode 0xF00000D3) .readCpsr = some (.word 0xF00000D3) := by decide

/-- P12 and P10. -/
theorem test_writeCpsr :
    (nextOf (exec (.writeCpsr 0x000100D3) State.reset)).map (·.cpu.cpsr) = some 0x000100D3 ∧
    faultOf (exec (.writeCpsr 0x1E) State.reset) = some (.badMode 0x1E) := by decide

/-- P29. -/
theorem test_before_reset :
    refusalOf (exec .readCpsr powered) = some .beforeFirstReset ∧
    (nextOf (exec (.setLine .irq true) powered)).map (·.cpu.lines.irq) = some true := by decide

theorem test_phys :
    replyOf State.reset (.readPhys (.gpr .r14svc)) = some (.word 0) ∧
    (regsOf (freshIn 0x10) (.writePhys (.gpr .r8fiq) 9)).map (fun f => (f.r8usr, f.r8fiq))
      = some (none, some 9) := by decide

/-- P13, P14 and P16. -/
theorem test_regSpsr :
    replyOf State.reset .regSpsr = some (.word 0) ∧
    faultOf (exec .regSpsr (inMode 0xDF)) = some (.spsrUnbanked .sys) ∧
    faultOf (exec .regSpsr (freshIn 0xD7)) = some (.unwritten (.spsr .abt)) := by decide

/-- P17 and P15. -/
theorem test_writeSpsr :
    (nextOf (exec (.writeSpsr 0x1E) State.reset)).map (fun t => (t.cpu.spsr.svc, t.cpu.cpsr))
      = some (some 0x1E, 0xD3) ∧
    faultOf (exec (.writeSpsr 0) (inMode 0x10)) = some (.spsrUnbanked .usr) := by decide

/-- P18. -/
theorem test_setSwiHle :
    (nextOf (exec (.setSwiHle 255 (some 7)) State.reset)).map (fun t => (t.cpu.hle[255], t.cpu.hle[254]))
      = some (some 7, none) := by decide

/-- P19 and P20. -/
theorem test_setSwiHle_range :
    faultOf (exec (.setSwiHle 256 (some 7)) State.reset) = some (.hleRange 256) ∧
    faultOf (exec (.setSwiHle (-1) (some 7)) State.reset) = some (.hleRange (-1)) := by decide

theorem test_setCoprocessor :
    (nextOf (exec (.setCoprocessor (some 3)) State.reset)).map (·.cpu.coproc) = some (some 3) := by decide

/-- P22 (already asserted) and P24. -/
theorem test_setLine :
    (nextOf (exec (.setLine .irq true)
        { State.reset with
          cpu := { State.reset.cpu with lines := { fiq := false, irq := true, halt := false } } })).map
      (fun t => (t.cpu.lines, t.cpu.recheck)) = some ({ fiq := false, irq := true, halt := false }, false) ∧
    (nextOf (exec (.setLine .fiq true) (lined false true true 0xD3))).map (·.cpu.lines)
      = some { fiq := true, irq := true, halt := false } := by decide

/-- P23 and P25: HALT does not clear an interrupt line; a deassert leaves RECHECK. -/
theorem test_setLine_halt :
    (nextOf (exec (.setLine .halt true) (lined false true false 0xD3))).map (·.cpu.lines)
      = some { fiq := false, irq := true, halt := true } ∧
    (nextOf (exec (.setLine .fiq false) State.reset)).map (fun t => (t.cpu.lines.fiq, t.cpu.recheck))
      = some (false, false) := by decide

/-- P27 and P28. -/
theorem test_clock :
    (nextOf (exec (.advanceClock 5)
        { State.reset with cpu := { State.reset.cpu with clock := 0xFFFFFFFFFFFFFFFE } })).map (·.cpu.clock)
      = some 3 ∧
    replyOf State.reset .readClock = some (.clock 3) := by decide

/-! ## Exceptions (sections 2.2 to 2.4) -/

/-- X1. -/
theorem test_dispatchReset :
    entryOf .svc (at_ 0x02000000 0x10) .dispatchReset
      = some (0xD3, some 0x10, some 0x02000000, 0x00, 3) := by decide

/-- X3 and X15. -/
theorem test_dispatchUndefined :
    entryOf .und (at_ 0x02000000 0x30) .dispatchUndefined
      = some (0x9B, some 0x30, some 0x02000002, 0x04, 3) ∧
    entryOf .und (at_ 0x02000000 0xF0000050) .dispatchUndefined
      = some (0xF00000DB, some 0xF0000050, some 0x02000004, 0x04, 3) := by decide

/-- X5. -/
theorem test_dispatchSoftwareInterrupt :
    entryOf .svc (at_ 0x02000010 0x30) (.dispatchSoftwareInterrupt 6)
      = some (0x93, some 0x30, some 0x02000012, 0x08, 3) := by decide

/-- X16: the old SPSR_svc and r14_svc are lost. -/
theorem test_dispatchSoftwareInterrupt_nested :
    entryOf .svc (at_ 0x02000000 0xD3) (.dispatchSoftwareInterrupt 1)
      = some (0xD3, some 0xD3, some 0x02000004, 0x08, 3) := by decide

/-- X8 and X7. -/
theorem test_dispatchPrefetchAbort :
    entryOf .abt (at_ 0xFFFFFFFC 0x10) .dispatchPrefetchAbort
      = some (0x97, some 0x10, some 0x00000000, 0x0C, 3) ∧
    entryOf .abt (at_ 0x02000000 0x30) .dispatchPrefetchAbort
      = some (0x97, some 0x30, some 0x02000004, 0x0C, 3) := by decide

/-- X10. -/
theorem test_dispatchDataAbort :
    entryOf .abt (at_ 0x02000000 0x30) .dispatchDataAbort
      = some (0x97, some 0x30, some 0x02000008, 0x10, 3) := by decide

/-- X11. -/
theorem test_dispatchAddressOverflow :
    entryOf .svc (at_ 0x00000100 0x10) .dispatchAddressOverflow
      = some (0x93, some 0x10, some 0x00000104, 0x14, 3) := by decide

/-- X13, and W10: SPSR_svc is not the IRQ entry's. -/
theorem test_dispatchIrq :
    entryOf .irq (at_ 0x02000100 0x30) .dispatchIrq
      = some (0x92, some 0x30, some 0x02000104, 0x18, 3) ∧
    (nextOf (exec .dispatchIrq (inMode 0x13))).map (fun t => (t.cpu.spsr.irq, t.cpu.spsr.svc))
      = some (some 0x13, some 0) := by decide

/-- X14. -/
theorem test_dispatchFiq :
    entryOf .fiq (at_ 0x02000100 0x10) .dispatchFiq
      = some (0xD1, some 0x10, some 0x02000104, 0x1C, 3) := by decide

/-- Program 2, step 1, and its Thumb variant. -/
theorem test_swi :
    entryOf .svc (at_ 0x02000000 0x10) (.swiArm 0xE 0x060000)
      = some (0x93, some 0x10, some 0x02000004, 0x08, 3) ∧
    entryOf .svc (at_ 0x02000010 0x30) (.swiThumb 0x06)
      = some (0x93, some 0x30, some 0x02000012, 0x08, 3) := by decide

/-- D-6 and D-7: FIQ before IRQ; a masked FIQ lets IRQ through and stays masked. -/
theorem test_dispatchPoint :
    (nextOf (exec .dispatchPoint (lined true true false 0x1F))).map
      (fun t => (t.reply, t.cpu.cpsr, t.cpu.pc)) = some (.taken .fiq, 0xD1, 0x1C) ∧
    (nextOf (exec .dispatchPoint (lined true true false 0x5F))).map
      (fun t => (t.reply, t.cpu.cpsr, t.cpu.pc)) = some (.taken .irq, 0xD2, 0x18) := by decide

/-- D-9, D-3 and D-8: halted first; a masked line; RECHECK cleared. -/
theorem test_dispatchPoint_quiet :
    (nextOf (exec .dispatchPoint (lined false true true 0x1F))).map
      (fun t => (t.reply, t.cpu.cpsr, t.cpu.recheck)) = some (.halted, 0x1F, false) ∧
    (nextOf (exec .dispatchPoint (lined false true false 0x9F))).map
      (fun t => (t.reply, t.cpu.pc, t.cpu.recheck)) = some (.run, 0x02000200, false) := by decide

/-- An IRQ-mode state with the given SPSR_irq. -/
def irqMode (spsr : Option Word) : State :=
  { State.reset with
    cpu := { State.reset.cpu with cpsr := 0xD2, spsr := { State.reset.cpu.spsr with irq := spsr } } }

/-- E-1's second half, E-5, E-6 and E-4. -/
theorem test_restoreCpsrFromSpsr :
    (nextOf (exec .restoreCpsrFromSpsr (irqMode (some 0x10)))).map (·.cpu.cpsr) = some 0x10 ∧
    faultOf (exec .restoreCpsrFromSpsr (irqMode none)) = some (.unwritten (.spsr .irq)) ∧
    faultOf (exec .restoreCpsrFromSpsr (irqMode (some 0x1E))) = some (.badMode 0x1E) ∧
    faultOf (exec .restoreCpsrFromSpsr (inMode 0x1F)) = some (.spsrUnbanked .sys) := by decide

/-- W18. -/
theorem test_reset :
    entryOf .svc (inMode 0x6000001F) .reset = some (0x600000D3, some 0x6000001F, some 0, 0, 3) := by decide

/-- T12 and P30: the transfer is closed, a line stays asserted, HALT too. -/
theorem test_reset_keeps :
    (nextOf (exec .reset (touching (.data1 0x3AA false)))).map (fun t => (t.ts, t.pen.x))
      = some (.closed, 0x40) ∧
    (nextOf (exec .reset (lined false true true 0x1F))).map (fun t => (t.cpu.lines, t.cpu.recheck))
      = some ({ fiq := false, irq := true, halt := true }, false) := by decide

/-! ## Divisor (section 2.5) -/

/-- W15 at DIVCNT's mask, and R69's mask of a 16-bit register with `rwmask` 0x00FF and value 0x8001. -/
theorem test_masks :
    romaskOf (some (0x00FF : BitVec 16)) = 0xFF00 ∧
    busMerge (0x8001 : BitVec 16) 0xFF00 0xFFFF 0xFFFF = 0x80FF ∧
    divcntRomask = 0xFFFC ∧ dataRomask .rem = BitVec.allOnes 64 ∧ dataRomask .denom = 0 := by decide

/-- V1, V2, V4, V6, V7 and V10: mode 0. -/
theorem test_divide_mode0 :
    divide 0 10 3 = (3, 1) ∧
    divide 0 5 0 = (0x0000000FFFFFFFFF, 5) ∧
    divide 0 0x00000000FFFFFFFF 0 = (0xFFFFFFF000000000, 0xFFFFFFFFFFFFFFFF) ∧
    divide 0 0xFFFFFFFF80000000 0x00000000FFFFFFFF = (0x0000000080000000, 0) ∧
    divide 0 0xFFFFFFFFFFFFFFF9 2 = (0xFFFFFFFFFFFFFFFD, 0xFFFFFFFFFFFFFFFF) ∧
    divide 0 0x0000000123456789 0x0000000100000003 = (0x000000000BC1CD2D, 2) := by decide

/-- V16, V17, V19, V24, V25 and V30: modes 1 to 3. -/
theorem test_divide_modes :
    divide 1 0xFFFFFFFFFFFFFFFB 0 = (1, 0xFFFFFFFFFFFFFFFB) ∧
    divide 1 0x8000000000000000 0x00000000FFFFFFFF = (0x8000000000000000, 0) ∧
    divide 1 0x0000000100000000 0x00000000FFFFFFFE = (0xFFFFFFFF80000000, 0) ∧
    divide 2 0x8000000000000000 0xFFFFFFFFFFFFFFFF = (0x8000000000000000, 0) ∧
    divide 2 0x8000000000000000 0x00000000FFFFFFFF = (0xFFFFFFFF80000000, 0xFFFFFFFF80000000) ∧
    divide 3 0xFFFFFFFFFFFFFFEC 0xFFFFFFFFFFFFFFF9 = (2, 0xFFFFFFFFFFFFFFFA) := by decide

/-- B3's write; B4: the upper byte holds no writable bit but the write recomputes. -/
theorem test_busWriteDivcnt :
    (nextOf (exec (.busWriteDivcnt wholeCnt 0xFFFF) State.reset)).map (·.div.cnt) = some 3 ∧
    (nextOf (exec (.busWriteDivcnt { bank := 0, disp := 1, size := .b1 } 0xFF)
        { State.reset with div := { Divisor.zero with numer := 20 } })).map
      (fun t => (t.div.cnt, t.div.result, t.div.rem)) = some (0, 0x0000000FFFFFFFFF, 20) := by decide

/-- B5's second write. -/
theorem test_busWriteDivNumer :
    (nextOf (exec (.busWriteDivNumer { bank := 0, disp := 4, size := .b4 } 1) (dividing 0 0xA 0))).map
      (fun t => (t.div.numer, t.div.rem)) = some (0x000000010000000A, 0xA) := by decide

/-- B9 and B10. -/
theorem test_bus_misaligned :
    faultOf (exec (.busWriteDivNumer { bank := 0, disp := 2, size := .b4 } 0) State.reset)
      = some (.busMisaligned 0 0x292 4) ∧
    faultOf (exec (.busReadDivData .numer { bank := 0, disp := 1, size := .b2 }) State.reset)
      = some (.busMisaligned 0 0x291 2) := by decide

/-- B6, and program 1's write of 3. -/
theorem test_busWriteDivDenom :
    (nextOf (exec (.busWriteDivDenom { bank := 0, disp := 4, size := .b4 } 0)
        (dividing 2 20 0x0000000100000000))).map (fun t => (t.div.denom, t.div.result, t.div.rem))
      = some (0, 0xFFFFFFFFFFFFFFFF, 20) ∧
    (nextOf (exec (.busWriteDivDenom { bank := 0, disp := 0, size := .b4 } 3) (dividing 0 10 0))).map
      (fun t => (t.div.result, t.div.rem)) = some (3, 1) := by decide

/-- B8. -/
theorem test_busWriteDivResult :
    (nextOf (exec (.busWriteDivResult .result whole 0) (dividing 0 10 3))).map (·.div.result) = some 3 := by
  decide

/-- B1, V14's and V20's DIVCNT. -/
theorem test_busReadDivcnt :
    replyOf State.reset (.busReadDivcnt wholeCnt) = some (.data 0x4000) ∧
    replyOf (dividing 1 5 0) (.busReadDivcnt wholeCnt) = some (.data 0x4001) ∧
    replyOf (dividing 1 100 0x0000000100000000) (.busReadDivcnt wholeCnt) = some (.data 0x0001) := by decide

/-- B11 and B12. -/
theorem test_bus_unmapped :
    faultOf (exec (.busReadDivcnt { bank := 0, disp := 4, size := .b2 }) State.reset)
      = some (.busUnmapped 0 0x284 2) ∧
    faultOf (exec (.busReadDivcnt { bank := 0, disp := 0, size := .b4 }) State.reset)
      = some (.busUnmapped 0 0x280 4) := by decide

/-- B7, and program 1's last read: the high word of the 36-bit literal. -/
theorem test_busReadDivData :
    replyOf (dividing 2 5 0) (.busReadDivData .result { bank := 0, disp := 4, size := .b4 })
      = some (.data 0xFFFFFFFF) ∧
    replyOf (dividing 0 10 0) (.busReadDivData .result { bank := 0, disp := 4, size := .b4 })
      = some (.data 0x0000000F) := by decide

/-- A divisor in bank -1 with DIVCNT at 0x10 and DIV_NUMER at 0x14: the faults carry that bank, an 8-byte access to
the numerator is misaligned, and an aligned access to it under DIVCNT's code is the numerator's operation. -/
theorem test_bus_parameters :
    let m : DivMap := { bank := -1, divcnt := 0x10, numer := 0x14, denom := 0x20, result := 0x28, rem := 0x30 }
    let s : State := { State.reset with params := { Params.suggested with div := m } }
    m.wf = true ∧
    faultOf (exec (.busReadDivcnt { bank := 0, disp := 0, size := .b2 }) s) = some (.busUnmapped 0 0x10 2) ∧
    faultOf (exec (.busWriteDivNumer { bank := -1, disp := 0, size := .b8 } 1) s)
      = some (.busMisaligned (-1) 0x14 8) ∧
    (nextOf (exec (.busWriteDivNumer { bank := -1, disp := 4, size := .b4 } 1) s)).map (·.div.numer)
      = some 0x100000000 ∧
    refusalOf (exec (.busReadDivcnt { bank := -1, disp := 4, size := .b2 }) s) = some .otherRegister := by decide

/-- The suggested map is one, and maps that overlap or run past the bank are none. -/
theorem test_divMap_wf :
    Params.suggested.div.wf = true ∧
    ({ Params.suggested.div with divcnt := 0x297 } : DivMap).wf = false ∧
    ({ Params.suggested.div with rem := 0xFFFFFFF9 } : DivMap).wf = false ∧
    ({ Params.suggested.div with rem := 0xFFFFFFF8 } : DivMap).wf = true := by decide

/-! ## Touchscreen (section 2.6) -/

/-- The framing table: 0xABC in both framings, and 0x3AA. -/
theorem test_framing :
    (byte1 0xABC false, byte2 0xABC false) = (0x55, 0xE0) ∧
    (byte1 0xABC true, byte2 0xABC true) = (0x55, 0x80) ∧
    (byte1 0x3AA false, byte2 0x3AA false) = (0x1D, 0x50) := by decide

/-- S2 to S5: interior, clamped below and above, and one unit in. -/
theorem test_samples :
    sample 1 { down := true, x := 0x40, y := 0x30 } (readCalibration Params.suggested.cal calA) = 0x3AA ∧
    sample 5 { down := true, x := 0x40, y := 0x30 } (readCalibration Params.suggested.cal calA) = 0x400 ∧
    sample 1 { down := true, x := 0, y := 0 } (readCalibration Params.suggested.cal calA) = 0 ∧
    sample 1 { down := true, x := 0xFF, y := 0xBF } (readCalibration Params.suggested.cal calA) = 0xFFF ∧
    sample 5 { down := true, x := 0xFF, y := 0xBF } (readCalibration Params.suggested.cal calA) = 0xFF0 ∧
    sample 1 { down := true, x := 0x21, y := 0x19 } (readCalibration Params.suggested.cal calA) = 0x197 := by decide

/-- W13 and W14: the unit mapping and the zero span. -/
theorem test_interp : interp 0x77 10 10 200 200 = 0x77 ∧ interp 0x77 0x1234 5 0 5 = 0xFFF := by decide

/-- T8's fault, and an opening. -/
theorem test_beginTransfer :
    (nextOf (exec .beginTransfer State.reset)).map (·.ts) = some .idle ∧
    faultOf (exec .beginTransfer (touching .drain)) = some .tscOverlap := by decide

/-- T7 and T10. -/
theorem test_endTransfer :
    (nextOf (exec .endTransfer (touching (.data1 0xFFF false)))).map (·.ts) = some .closed ∧
    faultOf (exec .endTransfer State.reset) = some .tscNoTransfer := by decide

/-- Program 4, steps 2 and 4: a command in Idle, and a chained one in Data2. -/
theorem test_exchange_command :
    (nextOf (exec (.exchange 0x90) (touching .idle))).map (fun t => (t.reply, t.ts))
      = some (.byte 0x00, .data1 0x3AA false) ∧
    (nextOf (exec (.exchange 0xD0) (touching (.data2 0x3AA false)))).map (fun t => (t.reply, t.ts))
      = some (.byte 0x50, .data1 0x400 false) := by decide

/-- T9, T1's last two bytes, and T5's second. -/
theorem test_exchange :
    faultOf (exec (.exchange 0x90) State.reset) = some .tscNoTransfer ∧
    (nextOf (exec (.exchange 0x90) (touching .drain))).map (fun t => (t.reply, t.ts))
      = some (.byte 0x00, .drain) ∧
    (nextOf (exec (.exchange 0x00) (touching (.data1 0x3AA false)))).map (fun t => (t.reply, t.ts))
      = some (.byte 0x1D, .data2 0x3AA false) ∧
    (nextOf (exec (.exchange 0x00) (touching (.data2 0x400 false)))).map (fun t => (t.reply, t.ts))
      = some (.byte 0x00, .drain) := by decide

/-- T11: the pen changes and the conversion does not. -/
theorem test_setPen :
    (nextOf (exec (.setPen true 0x80 (-1)) (touching (.data1 0xFFF false)))).map (fun t => (t.pen, t.ts))
      = some ({ down := true, x := 0x80, y := -1 }, .data1 0xFFF false) := by decide

/-- T3's and T4's command bytes, S9's channels, and a byte with no start bit. -/
theorem test_command_rows :
    (nextOf (exec (.tscCmdCh5X true false 0) (touching .idle))).map (·.ts) = some (.data1 0x400 true) ∧
    (nextOf (exec (.tscCmdCh1Y false false 0) (touching .idle))).map (·.ts) = some (.data1 0x3AA false) ∧
    (nextOf (exec (.tscCmdCh0Midscale false true 0) (touching .idle))).map (·.ts)
      = some (.data1 0x800 false) ∧
    (nextOf (exec (.tscCmdCh2Unimpl false true 0) (touching .drain))).map (·.ts) = some .drain ∧
    (nextOf (exec (.tscCmdCh7Unimpl true true 3) (touching .idle))).map (·.ts) = some (.data1 0x800 true) ∧
    (nextOf (exec (.tscNonstart 0x00) (touching .idle))).map (·.ts) = some .idle := by decide

/-! ## The step and the words of the opcode table -/

/-- The first operation after reset is the one the word is (log 3, log 7). -/
theorem test_withFetchWord :
    (nextOf (step (State.reset.withFetchWord 8 0x0D))).map (·.reply) = some (.clock 3) ∧
    (nextOf (step (State.reset.withFetchWord 32 0xEF060000))).map (·.cpu.pc) = some 0x08 ∧
    (nextOf (step (State.reset.withFetchWord 16 0xDF06))).map (·.cpu.clock) = some 6 ∧
    faultOf (step (State.reset.withFetchWord 8 0x90)) = some .tscNoTransfer := by decide

/-- A byte of RAM written by the environment: listed, rewritten, and removed by the value it reads as. -/
theorem test_ram :
    Memory.write (Memory.write [] 8 1) 4 2 = [(4, 2), (8, 1)] ∧
    Memory.write [(4, 2), (8, 1)] 4 0 = [(8, 1)] ∧
    Memory.read [(4, 2), (8, 1)] 6 = 0 ∧
    Memory.wf calA = true ∧ Memory.wf [(8, 1), (4, 2)] = false ∧ Memory.wf [(4, 0)] = false := by decide

/-! ## States and operands that meet the hypotheses of the statements

One theorem per statement with hypotheses, or per group of statements with the same ones; a statement of several
clauses has one part per clause, at the edge of the clause's range. -/

/-- A reset state with one input. -/
def given (x : Input) : State := { State.reset with input := [x] }

theorem witness_StepRunsTheNextOperation :
    (given (.op .port [0x03])).input = .op .port [0x03] :: [] ∧ decode .port [0x03] = .ok .readCpsr := by
  decide

/-- The codes beside every block of R119's table. -/
theorem witness_StepRefusesUnlistedCommandCode :
    (given (.op .port [0x0E, 0x00])).input = .op .port (0x0E :: [0x00]) :: [] ∧
    ∀ opc ∈ [(0x00 : Byte), 0x0E, 0x1F, 0x2B, 0x2F, 0x36, 0x3F, 0x44, 0xFF], listedOpcode opc = false := by
  decide

theorem witness_StepAppliesTheEnvironmentsRamWrite :
    (given (.ram 0xFFFFFFFF 5)).ram.wf = true ∧
    (given (.ram 0xFFFFFFFF 5)).input = .ram 0xFFFFFFFF 5 :: [] ∧ State.reset.input = [] := by decide

theorem witness_DecodeOfEncodeIsIdentity :
    (Instr.setSwiHle (-2 ^ 63) (some 1)).wellFormed = true ∧
    (Instr.setPen false (2 ^ 63 - 1) 0).wellFormed = true ∧
    (Instr.busReadDivData .denom { bank := 1, disp := 3, size := .b8 }).wellFormed = true := by decide

theorem witness_DecodedFramesAreEncodings :
    decode .port [0x41, 0x90, 0x00] = .ok (.exchange 0x90) ∧
    decode .tsc [0xFF] = .ok (.tscCmdCh7Unimpl true true 3) := by decide

/-- A power-on state about to open a transfer meets the invariant and steps. -/
theorem witness_StepKeepsTheInvariant :
    ∃ s t : State, s.input = [.op .port [0x40]] ∧ Inv s ∧ step s = .next t := by
  refine ⟨{ State.powerOn Params.suggested 0xFFFFFFFF (some 1) with input := [.op .port [0x40]] }, _, rfl, ?_, rfl⟩
  exact ⟨fun h => (nomatch h), fun _ => ⟨rfl, fun e => by cases e <;> rfl, rfl⟩, by decide, .inl rfl, rfl,
    by decide⟩

/-- Registers that all hold values, about to be read; and a parameter map for each clause about resets. -/
theorem witness_held :
    (∃ s t : State, s.input = [.op .port [0x01, 0x00]] ∧ Held s ∧ step s = .next t) ∧
    Params.suggested.div.wf = true :=
  ⟨⟨{ State.reset with input := [.op .port [0x01, 0x00]] }, _, rfl,
    ⟨fun g => by cases g <;> rfl, fun e => by cases e <;> rfl⟩, rfl⟩, by decide⟩

/-- An invalid mode; a mode with a register that holds a value, and one that holds none. -/
theorem witness_register_ports :
    ((inMode 0x1E).wasReset = true ∧ psrMode (inMode 0x1E).cpu.cpsr = none) ∧
    (fresh.wasReset = true ∧ psrMode fresh.cpu.cpsr = some .svc ∧
      fresh.cpu.readPhys (view .svc 0) = none ∧
      fresh.cpu.readPhys (view .svc 14) = some 0) := by decide

/-- The first and last registers a row of R21's table names, in each mode; 15 is named by none. -/
theorem witness_bankRows :
    (∀ row ∈ bankRows, row.2.length = 15 ∧ row.2[(0 : BitVec 4).toNat]? = some .r0 ∧
      (row.2[(14 : BitVec 4).toNat]?).isSome = true ∧ row.2[(15 : BitVec 4).toNat]? = none) ∧
    bankRows.map (·.1) = [0x10, 0x1F, 0x11, 0x13, 0x17, 0x12, 0x1B] ∧
    (inMode 0x12).wasReset = true ∧ (inMode 0x12).cpu.cpsr.extractLsb' 0 5 = 0x12 := by decide

/-- From User to FIQ: 7 and 15 are shared, 8 and 14 are not; from User to System 14 is shared and from IRQ to
Supervisor 12 is and 13 is not; 13 of Supervisor holds nothing and 14 holds 0. -/
theorem witness_VisibleRegistersFollowTheModesBank :
    (freshIn 0x10).wasReset = true ∧ psrMode (freshIn 0x10).cpu.cpsr = some .usr ∧
    psrMode 0xD1 = some .fiq ∧ psrMode 0xD3 = some .svc ∧ psrMode 0x1F = some .sys ∧
    (7 : BitVec 4).toNat < 8 ∧ (15 : BitVec 4).toNat = 15 ∧
    ¬ ((8 : BitVec 4).toNat < 13 ∧ (Mode.usr = .fiq ↔ Mode.fiq = .fiq)) ∧
    (13 ≤ (14 : BitVec 4).toNat ∧ spsrOf .usr = spsrOf .sys) ∧
    ((12 : BitVec 4).toNat < 13 ∧ (Mode.irq = .fiq ↔ Mode.svc = .fiq)) ∧
    ¬ (13 ≤ (13 : BitVec 4).toNat ∧ spsrOf .irq = spsrOf .svc) ∧
    (freshIn 0x10).cpu.readPhys (view .svc 13) = none ∧
    (freshIn 0x10).cpu.readPhys (view .svc 14) = some 0 := by decide

theorem witness_PhysicalRegisterPorts :
    fresh.wasReset = true ∧ fresh.cpu.readPhys (.gpr .r14und) = none ∧
    fresh.cpu.readPhys .pc = some 0 := by decide

theorem witness_CpsrPorts :
    State.reset.wasReset = true ∧
    (0xFFFFFFFF : Word).extractLsb' 0 5 ∈ [(0x10 : BitVec 5), 0x11, 0x12, 0x13, 0x17, 0x1B, 0x1F] ∧
    (0x0000000F : Word).extractLsb' 0 5 ∉ [(0x10 : BitVec 5), 0x11, 0x12, 0x13, 0x17, 0x1B, 0x1F] ∧
    (0xFFFFFF12 : Word).extractLsb' 0 5 = 0x12 ∧ (0x0000001B : Word).extractLsb' 0 5 = 0x1B := by decide

/-- User, System, and IRQ mode with SPSR_irq holding nothing, a value, an invalid mode. -/
theorem witness_saved_status :
    (psrMode (inMode 0x10).cpu.cpsr = some .usr ∧ psrMode (inMode 0x1F).cpu.cpsr = some .sys) ∧
    (∀ v, (irqMode v).wasReset = true ∧ psrMode (irqMode v).cpu.cpsr = some .irq ∧
      (irqMode v).cpu.cpsr.extractLsb' 0 5 = excCode .irq ∧ (irqMode v).cpu.spsr.get .irq = v) ∧
    psrMode 0x30 = some .usr ∧ psrMode 0x1E = none :=
  ⟨by decide, fun _ => ⟨rfl, (by decide : psrMode 0xD2 = some .irq),
    (by decide : (0xD2 : Word).extractLsb' 0 5 = excCode .irq), rfl⟩, by decide⟩

theorem witness_SetSwiHleWritesOneEntry :
    ((-1 : Int) < 0 ∨ 255 < (-1 : Int)) ∧ ((256 : Int) < 0 ∨ 255 < (256 : Int)) ∧
    ((0 : Int) ≤ 0 ∧ (0 : Int) ≤ 255) ∧ ((0 : Int) ≤ 255 ∧ (255 : Int) ≤ 255) := by omega

/-- The premise of the coprocessor, clock, dispatch and touched-line statements. -/
theorem witness_after_first_reset : State.reset.wasReset = true ∧ (at_ 0xFFFFFFFC 0x30).wasReset = true := by
  decide

theorem witness_CpuOperationsWaitForTheFirstReset : powered.wasReset = false := by decide

/-- The three forms of SWI, with no hook at 7 and hook 7 at 6. -/
theorem witness_swi :
    hooked.wasReset = true ∧ swiImm (.dispatchSoftwareInterrupt 7) = some 7 ∧
    swiImm (.swiArm 0xE 0x070000) = some 7 ∧ swiImm (.swiThumb 7) = some 7 ∧
    hooked.cpu.hle[(7 : Byte).toNat]'(by decide) = none ∧
    swiImm (.swiArm 0xE 0x060000) = some 6 ∧
    hooked.cpu.hle[(6 : Byte).toNat]'(by decide) = some 7 := by decide

/-- Whatever the hook leaves, it is one of the two cases the statement about hooks has. -/
theorem witness_SwiRunsItsHook (w : Word) : (∃ m, psrMode w = some m) ∨ psrMode w = none := by
  cases psrMode w with
  | none => exact .inr rfl
  | some m => exact .inl ⟨m, rfl⟩

theorem witness_SwiInstructionsCarryTheirNumber :
    (0xEF060000 : BitVec 32).extractLsb' 24 4 = 0xF ∧ (0xDFFF : BitVec 16).extractLsb' 8 8 = 0xDF := by decide

/-- Halted; an unmasked FIQ; a masked FIQ with an unmasked IRQ; both masked. -/
theorem witness_DispatchPointSamplesTheLines :
    ((lined true true true 0x1F).wasReset = true ∧ (lined true true true 0x1F).cpu.lines.halt = true) ∧
    ((lined true true false 0x1F).cpu.lines.halt = false ∧
      ((lined true true false 0x1F).cpu.lines.fiq = true ∧ psrF (lined true true false 0x1F).cpu.cpsr = false)) ∧
    (¬ ((lined true true false 0x5F).cpu.lines.fiq = true ∧
        psrF (lined true true false 0x5F).cpu.cpsr = false) ∧
      ((lined true true false 0x5F).cpu.lines.irq = true ∧ psrI (lined true true false 0x5F).cpu.cpsr = false)) ∧
    (¬ ((lined true true false 0xDF).cpu.lines.fiq = true ∧
        psrF (lined true true false 0xDF).cpu.cpsr = false) ∧
      ¬ ((lined true true false 0xDF).cpu.lines.irq = true ∧
        psrI (lined true true false 0xDF).cpu.cpsr = false)) := by decide

theorem witness_InterruptLineWakesTheHaltedCore :
    (lined false false true 0xDF).wasReset = true ∧ (lined false false true 0xDF).cpu.lines.halt = true ∧
    Line.irq ≠ .halt ∧ Line.fiq ≠ .halt ∧ psrI (lined false false true 0xDF).cpu.cpsr = true ∧
    psrF (lined false false true 0xDF).cpu.cpsr = true ∧
    (lined false false true 0x5F).wasReset = true ∧ (lined false false true 0x5F).cpu.lines.halt = true ∧
    (if Line.irq = .fiq then psrF (lined false false true 0x5F).cpu.cpsr
      else psrI (lined false false true 0x5F).cpu.cpsr) = false := by decide

theorem witness_ReturnSequencesResume :
    (at_ 0x02000100 0x30).wasReset = true ∧ psrMode (at_ 0x02000100 0x30).cpu.cpsr = some .usr ∧
    psrT (at_ 0x02000100 0x30).cpu.cpsr = true ∧
    (Instr.dispatchFiq, (4 : Word), (0 : Word)) ∈
      [(Instr.dispatchUndefined, (0 : Word), if psrT (at_ 0x02000100 0x30).cpu.cpsr then (2 : Word) else 4),
        (.dispatchPrefetchAbort, 4, 0), (.dispatchDataAbort, 8, 0), (.dispatchIrq, 4, 0),
        (.dispatchFiq, 4, 0)] ∧
    swiImm (.swiThumb 0xFF) = some 0xFF ∧
    (at_ 0x02000100 0x30).cpu.hle[(0xFF : Byte).toNat]'(by decide) = none := by decide

theorem witness_FiqPreemptsAnIrqHandler :
    (lined false true false 0x1F).wasReset = true ∧
    (lined false true false 0x1F).cpu.lines = { fiq := false, irq := true, halt := false } ∧
    psrI (lined false true false 0x1F).cpu.cpsr = false ∧
    psrF (lined false true false 0x1F).cpu.cpsr = false := by decide

/-- Operations that answer a next state: a CPSR write that changes the mode, a clock read, a divisor
operation and a transfer operation; none of them is SetLine or a SWI. -/
theorem witness_next_states :
    (∃ t, exec (.writeCpsr 0x10) State.reset = .next t ∧ t.cpu.cpsr ≠ 0xD3) ∧
    (∃ t, isReadOp .readClock = true ∧ isCpuOp .readClock = true ∧ exec .readClock State.reset = .next t) ∧
    (∃ t, isDivisorOp (.busWriteDivNumer whole 1) = true ∧
      exec (.busWriteDivNumer whole 1) State.reset = .next t) ∧
    (∃ t, isTransferOp .beginTransfer = true ∧ exec .beginTransfer State.reset = .next t) ∧
    (∀ l b, Instr.readClock ≠ .setLine l b) ∧ swiImm .readClock = none :=
  ⟨⟨_, rfl, by decide⟩, ⟨_, rfl, rfl, rfl⟩,
    ⟨_, rfl, busAccess_of_lanes (m := Params.suggested.div) (r := .numer) (acc := whole) _ (by decide)
      (by unfold Lanes; decide)⟩,
    ⟨_, rfl, rfl⟩, fun _ _ => nofun, rfl⟩

/-- Mode 0: by zero with the least numerator, the overflow pair, and beside it. -/
theorem witness_DivideModeZero :
    ((0xFFFFFFFF00000000 : DWord).setWidth 32).toInt = 0 ∧
    (((0x00000000FFFFFFFF : DWord).setWidth 32).toInt = -1 ∧
      (0x80000000 : DWord).setWidth 32 = (0x80000000 : BitVec 32)) ∧
    (((0x00000000FFFFFFFF : DWord).setWidth 32).toInt ≠ 0 ∧
      ¬ (((0x00000000FFFFFFFF : DWord).setWidth 32).toInt = -1 ∧
        (0x80000001 : DWord).setWidth 32 = (0x80000000 : BitVec 32))) := by decide

/-- Modes 1 and 2: by zero (in mode 1 of the low half only), the overflow pair, and beside it. -/
theorem witness_DivideModesOneToThree :
    (1 : BitVec 2) ≠ 0 ∧ (2 : BitVec 2) ≠ 0 ∧ (3 : BitVec 2) ≠ 0 ∧
    (((0x0000000100000000 : DWord).setWidth 32).toInt = 0 ∧ (0 : DWord).toInt = 0) ∧
    ((0xFFFFFFFFFFFFFFFF : DWord).toInt = -1 ∧ ((0x00000000FFFFFFFF : DWord).setWidth 32).toInt = -1) ∧
    ((0xFFFFFFFFFFFFFFFF : DWord).toInt ≠ 0 ∧
      ¬ ((0xFFFFFFFFFFFFFFFF : DWord).toInt = -1 ∧ (0x8000000000000001 : DWord) = 0x8000000000000000)) := by
  decide

/-- The pair beside the overflow pair, in mode 0 and in mode 2. -/
theorem witness_DivisionIdentity :
    (((0x00000000FFFFFFFF : DWord).setWidth 32).toInt ≠ 0 ∧
      ((0x80000001 : DWord).setWidth 32).toInt ≠ -2 ^ 31) ∧
    ((0xFFFFFFFFFFFFFFFF : DWord).toInt ≠ 0 ∧ (0x8000000000000001 : DWord).toInt ≠ -2 ^ 63) := by decide

/-- The first and last lanes of each register, at each size. -/
theorem witness_lanes :
    State.reset.params.div.wf = true ∧
    Lanes State.reset.params.div .divcnt wholeCnt ∧
    Lanes State.reset.params.div .divcnt { bank := 0, disp := 1, size := .b1 } ∧
    (∀ r ∈ [DivReg.numer, .denom, .result, .rem],
      Lanes State.reset.params.div r whole ∧
        Lanes State.reset.params.div r { bank := 0, disp := 4, size := .b4 } ∧
        Lanes State.reset.params.div r { bank := 0, disp := 6, size := .b2 } ∧
        Lanes State.reset.params.div r { bank := 0, disp := 7, size := .b1 }) ∧
    State.reset.params.div.numer.toNat % 8 = 0 ∧ State.reset.params.div.denom.toNat % 8 = 0 := by
  unfold Lanes
  decide

/-- An access in no register (a byte past DIVCNT; the same in another bank), one misaligned inside a register, and
an aligned one inside another register than DIVCNT, whose operation it is stated for. -/
theorem witness_bus_faults :
    (∀ q, ¬ Inside State.reset.params.div 0 0x282 1 q) ∧
    (∀ q, ¬ Inside State.reset.params.div (-1) 0x280 2 q) ∧
    (Inside State.reset.params.div 0 0x292 4 .numer ∧ (0x292 : BitVec 32).toNat % 4 ≠ 0) ∧
    (Inside State.reset.params.div 0 0x2A1 2 .result ∧ (0x2A1 : BitVec 32).toNat % 2 ≠ 0) ∧
    (Inside State.reset.params.div 0 (State.reset.params.div.offset .divcnt + 0x10) 2 .numer ∧
      (State.reset.params.div.offset .divcnt + 0x10).toNat % 2 = 0 ∧ DivReg.numer ≠ .divcnt) ∧
    Instr.busReadDivcnt wholeCnt ∈ busOps .divcnt wholeCnt 0 := by
  unfold Inside
  refine ⟨fun q => ?_, fun q => ?_, ?_⟩
  · cases q <;> decide
  · cases q <;> decide
  · decide

/-- Every transfer state. -/
theorem witness_transfer_states :
    State.reset.ts = .closed ∧ (touching .idle).ts = .idle ∧ (touching .idle).ts ≠ .closed ∧
    (touching (.data1 0xFFF true)).ts = .data1 0xFFF true ∧
    (touching (.data2 0 false)).ts = .data2 0 false ∧ (touching .drain).ts = .drain := by decide

/-- Both axes with the pen down and up, and the channels beside them. -/
theorem witness_SamplesByChannel :
    ((touching .idle).pen.down = true ∧ State.reset.pen.down = false) ∧
    ((0 : BitVec 3) ≠ 1 ∧ (0 : BitVec 3) ≠ 5) ∧ ((4 : BitVec 3) ≠ 1 ∧ (4 : BitVec 3) ≠ 5) ∧
    ((7 : BitVec 3) ≠ 1 ∧ (7 : BitVec 3) ≠ 5) := by decide

/-- A zero span, a span of one either way, and both ends of the unit mapping. -/
theorem witness_InterpolationOnIntegers :
    ((5 : Int) = 5) ∧ ((6 : Int) ≠ 5) ∧ ((4 : Int) ≠ 5) ∧
    ((0 : Int) ≤ 0 ∧ (0 : Int) ≤ 0xFFF) ∧ ((0 : Int) ≤ 0xFFF ∧ (0xFFF : Int) ≤ 0xFFF) ∧
    (10 : Int) ≠ 200 := by decide

/-- The twelve bytes at the suggested `CAL_ADDR`. -/
def calBytes : List (BitVec 32) :=
  let a := Params.suggested.cal
  [a.adcX1, a.adcX1 + 1, a.adcY1, a.adcY1 + 1, a.adcX2, a.adcX2 + 1, a.adcY2, a.adcY2 + 1,
    a.scrX1, a.scrY1, a.scrX2, a.scrY2]

/-- Two memories that differ just outside the calibration bytes, at either end. -/
theorem witness_CalibrationIsReadLittleEndian :
    Memory.read [(0x027FFCD7, 1)] 0x027FFCD7 ≠ Memory.read [(0x027FFCE4, 1)] 0x027FFCD7 ∧
    (∀ x ∈ calBytes, Memory.read [(0x027FFCD7, 1)] x.toNat = Memory.read [(0x027FFCE4, 1)] x.toNat) :=
  ⟨by decide, by simp [calBytes, Params.suggested, Memory.read]⟩

/-- Each field is read at its own address (R7, R71): CAL-A with its eight values. -/
theorem test_calibration :
    readCalibration Params.suggested.cal calA =
      { adcX1 := 0x200, adcY1 := 0x180, scrX1 := 0x20, scrY1 := 0x18,
        adcX2 := 0xE00, adcY2 := 0xE80, scrX2 := 0xE0, scrY2 := 0xA8 } := by decide

/-- A command of each framing. -/
theorem witness_AConversionDeliversItsSample :
    (touching .idle).ts = .idle ∧
    ((0x90 : Byte).getLsbD 7 = true ∧ (0x90 : Byte).getLsbD 3 = false) ∧
    ((0xD8 : Byte).getLsbD 7 = true ∧ (0xD8 : Byte).getLsbD 3 = true) := by decide

end Sys2Proof.Tests
end

section
/-! PROOFS. The CPU port operations (40_cpu_port.md R130-R141): the guards case by case, one equation per operation
after the first `Reset()`, and the statements of the family assembled from them. -/

namespace Sys2Proof.Machine

/-! ## The guards, case by case -/

theorem withMode_of_valid {s : State} {m : Mode} (k : Mode → Result) (h : psrMode s.cpu.cpsr = some m) :
    withMode s k = k m := by
  simp [withMode, h]

theorem withMode_of_invalid {s : State} (k : Mode → Result) (h : psrMode s.cpu.cpsr = none) :
    withMode s k = .fault (.badMode s.cpu.cpsr) := by
  simp [withMode, h]

theorem withSpsrMode_of_owner {s : State} {m : Mode} {e : ExcMode} (k : ExcMode → Result)
    (hm : psrMode s.cpu.cpsr = some m) (he : spsrOf m = some e) : withSpsrMode s k = k e := by
  simp [withSpsrMode, withMode_of_valid _ hm, he]

theorem withSpsrMode_of_unbanked {s : State} {m : Mode} (k : ExcMode → Result)
    (hm : psrMode s.cpu.cpsr = some m) (he : spsrOf m = none) :
    withSpsrMode s k = .fault (.spsrUnbanked m) := by
  simp [withSpsrMode, withMode_of_valid _ hm, he]

theorem withValue_of_some {v : Option Word} {w : Word} (f : Fault) (k : Word → Result) (h : v = some w) :
    withValue v f k = k w := by
  rw [h, withValue]

theorem withValue_of_none {v : Option Word} (f : Fault) (k : Word → Result) (h : v = none) :
    withValue v f k = .fault f := by
  rw [h, withValue]

/-! ## Mode codes, views and lines -/

theorem psrMode_of_code {w : Word} {c : BitVec 5} (h : w.extractLsb' 0 5 = c) : psrMode w = modeOfCode c :=
  congrArg modeOfCode h

/-- The codes that are no mode are those outside R90's seven. -/
theorem modeOfCode_eq_none_iff (c : BitVec 5) :
    modeOfCode c = none ↔ c ∉ [0x10, 0x11, 0x12, 0x13, 0x17, 0x1B, 0x1F] := by
  revert c
  decide

theorem psrMode_of_excCode {w : Word} {e : ExcMode} (h : w.extractLsb' 0 5 = excCode e) :
    psrMode w = some (modeOfExc e) := by
  rw [psrMode_of_code h, ← modeCode_modeOfExc, modeOfCode_modeCode]

/-- R21's table as `bankRows` writes it out is the view of the mode its row's code stands for. -/
theorem view_of_bankRows : ∀ row ∈ bankRows, ∀ i : BitVec 4, ∀ g ∈ row.2[i.toNat]?,
    (modeOfCode row.1).map (view · i) = some (.gpr g) := by
  decide

/-- A register write changes the register file and `PC` only. -/
theorem State.withCpu_writePhys (s : State) (r : PhysReg) (v : Word) :
    s.withCpu (s.cpu.writePhys r v) =
      { s with
        cpu := { s.cpu with regs := (s.cpu.writePhys r v).regs, pc := (s.cpu.writePhys r v).pc }
        reply := .none } := by
  cases r <;> rfl

theorem Lines.change_fiq (ls : Lines) (l : Line) (b : Bool) :
    (ls.change l b).fiq = if l = .fiq then b else ls.fiq := by
  cases b <;> cases l <;> rfl

theorem Lines.change_irq (ls : Lines) (l : Line) (b : Bool) :
    (ls.change l b).irq = if l = .irq then b else ls.irq := by
  cases b <;> cases l <;> rfl

/-- An asserted interrupt line clears HALT (R139). -/
theorem Lines.change_halt (ls : Lines) (l : Line) (b : Bool) :
    (ls.change l b).halt = if l = .halt then b else if b = true then false else ls.halt := by
  cases b <;> cases l <;> rfl

/-! ## The operations after the first `Reset()` -/

section
variable {s : State} (hr : s.wasReset = true)
include hr

theorem exec_readReg {m : Mode} (hm : psrMode s.cpu.cpsr = some m) (i : BitVec 4) :
    exec (.readReg i) s =
      withValue (s.cpu.readPhys (view m i)) (.unwritten (.phys (view m i)))
        fun v => .next (s.withReply (.word v)) :=
  (afterFirstReset_true hr).trans (withMode_of_valid _ hm)

theorem exec_readReg_badMode (hm : psrMode s.cpu.cpsr = none) (i : BitVec 4) :
    exec (.readReg i) s = .fault (.badMode s.cpu.cpsr) :=
  (afterFirstReset_true hr).trans (withMode_of_invalid _ hm)

theorem exec_writeReg {m : Mode} (hm : psrMode s.cpu.cpsr = some m) (i : BitVec 4) (v : Word) :
    exec (.writeReg i v) s = .next (s.withCpu (s.cpu.writePhys (view m i) v)) :=
  (afterFirstReset_true hr).trans (withMode_of_valid _ hm)

theorem exec_writeReg_badMode (hm : psrMode s.cpu.cpsr = none) (i : BitVec 4) (v : Word) :
    exec (.writeReg i v) s = .fault (.badMode s.cpu.cpsr) :=
  (afterFirstReset_true hr).trans (withMode_of_invalid _ hm)

theorem exec_readPhys (r : PhysReg) :
    exec (.readPhys r) s =
      withValue (s.cpu.readPhys r) (.unwritten (.phys r)) fun v => .next (s.withReply (.word v)) :=
  afterFirstReset_true hr

theorem exec_writePhys (r : PhysReg) (v : Word) :
    exec (.writePhys r v) s = .next (s.withCpu (s.cpu.writePhys r v)) :=
  afterFirstReset_true hr

theorem exec_readCpsr : exec .readCpsr s = .next (s.withReply (.word s.cpu.cpsr)) :=
  afterFirstReset_true hr

theorem exec_writeCpsr {v : Word} {m : Mode} (hv : psrMode v = some m) :
    exec (.writeCpsr v) s = .next (s.withCpu { s.cpu with cpsr := v }) := by
  simp [exec, execWriteCpsr, hr, hv]

theorem exec_writeCpsr_badMode {v : Word} (hv : psrMode v = none) :
    exec (.writeCpsr v) s = .fault (.badMode v) := by
  simp [exec, execWriteCpsr, hr, hv]

theorem exec_regSpsr {m : Mode} {e : ExcMode} (hm : psrMode s.cpu.cpsr = some m) (he : spsrOf m = some e) :
    exec .regSpsr s =
      withValue (s.cpu.spsr.get e) (.unwritten (.spsr e)) fun v => .next (s.withReply (.word v)) :=
  (afterFirstReset_true hr).trans (withSpsrMode_of_owner _ hm he)

theorem exec_regSpsr_unbanked {m : Mode} (hm : psrMode s.cpu.cpsr = some m) (he : spsrOf m = none) :
    exec .regSpsr s = .fault (.spsrUnbanked m) :=
  (afterFirstReset_true hr).trans (withSpsrMode_of_unbanked _ hm he)

theorem exec_writeSpsr {m : Mode} {e : ExcMode} (hm : psrMode s.cpu.cpsr = some m)
    (he : spsrOf m = some e) (v : Word) :
    exec (.writeSpsr v) s = .next (s.withCpu { s.cpu with spsr := s.cpu.spsr.set e v }) :=
  (afterFirstReset_true hr).trans (withSpsrMode_of_owner _ hm he)

theorem exec_writeSpsr_unbanked {m : Mode} (hm : psrMode s.cpu.cpsr = some m) (he : spsrOf m = none)
    (v : Word) : exec (.writeSpsr v) s = .fault (.spsrUnbanked m) :=
  (afterFirstReset_true hr).trans (withSpsrMode_of_unbanked _ hm he)

theorem exec_advanceClock (n : DWord) :
    exec (.advanceClock n) s = .next (s.withCpu { s.cpu with clock := s.cpu.clock + n }) :=
  afterFirstReset_true hr

theorem exec_readClock : exec .readClock s = .next (s.withReply (.clock s.cpu.clock)) :=
  afterFirstReset_true hr

theorem exec_dispatchIrq : exec .dispatchIrq s = .next (enterException .irq s) :=
  afterFirstReset_true hr

end

/-! ## The operations admitted at any time -/

theorem exec_setSwiHle {n : Int} (h : 0 ≤ n ∧ n ≤ 255) (hook : Option HookId) (s : State) :
    exec (.setSwiHle n hook) s =
      .next (s.withCpu { s.cpu with hle := s.cpu.hle.set n.toNat hook (by omega) }) :=
  dif_pos h

theorem exec_setSwiHle_range {n : Int} (h : n < 0 ∨ 255 < n) (hook : Option HookId) (s : State) :
    exec (.setSwiHle n hook) s = .fault (.hleRange n) :=
  dif_neg (by omega)

theorem runOps_cons_of_next {i : Instr} {s t : State} (h : exec i s = .next t) (is : List Instr) :
    runOps (i :: is) s = runOps is t := by
  simp [runOps, h]

/-! ## The statements -/

/-- Settles O9, by the equation of `ReadReg` in a valid mode. -/
theorem readRegReturnsTheVisibleRegister : Obligations.ReadRegReturnsTheVisibleRegister := by
  intro s i hr
  refine ⟨fun hm => exec_readReg_badMode hr hm i, fun m hm => ⟨fun hv => ?_, fun v hv => ?_, ?_⟩⟩
  · exact (exec_readReg hr hm i).trans (withValue_of_none _ _ hv)
  · exact (exec_readReg hr hm i).trans (withValue_of_some _ _ hv)
  · exact (exec_readReg hr hm 15).trans (withValue_of_some _ _ rfl)

/-- Settles O10: `WriteReg` writes through the view, and the view is R21's table (`view_of_bankRows`). -/
theorem writeRegWritesTheVisibleRegister : Obligations.WriteRegWritesTheVisibleRegister := by
  intro s i v hr
  refine ⟨fun hm => exec_writeReg_badMode hr hm i v, fun m hm => ⟨?_, exec_writeReg hr hm 15 v⟩, ?_⟩
  · exact ⟨_, exec_writeReg hr hm i v, Cpu.readPhys_writePhys_same _ _ _,
      fun r hne => Cpu.readPhys_writePhys_other _ _ hne, State.withCpu_writePhys _ _ _⟩
  · intro row hrow hcode g hg
    obtain ⟨m, hm, hview⟩ := Option.map_eq_some_iff.mp (view_of_bankRows row hrow i g hg)
    have hr' : (s.withCpu (s.cpu.writePhys (.gpr g) v)).wasReset = true := hr
    refine ⟨_, exec_writeReg hr ((psrMode_of_code hcode).trans hm) i v, ?_⟩
    rw [hview]
    exact (exec_readPhys hr' (.gpr g)).trans
      (withValue_of_some _ _ (Cpu.readPhys_writePhys_same s.cpu (.gpr g) v))

/-- Settles O12, by the equations of the two ports, neither of which reads the mode. -/
theorem physicalRegisterPorts : Obligations.PhysicalRegisterPorts := by
  intro s r v hr
  refine ⟨fun hv => ?_, fun u hu => ?_, _, exec_writePhys hr r v, Cpu.readPhys_writePhys_same _ _ _,
    fun q hne => Cpu.readPhys_writePhys_other _ _ hne, State.withCpu_writePhys _ _ _⟩
  · exact (exec_readPhys hr r).trans (withValue_of_none _ _ hv)
  · exact (exec_readPhys hr r).trans (withValue_of_some _ _ hu)

/-- Settles O13: a code is no mode exactly outside R90's seven (`modeOfCode_eq_none_iff`). -/
theorem cpsrPorts : Obligations.CpsrPorts := by
  intro s v hr
  refine ⟨exec_readCpsr hr, fun hvalid => ?_, fun hinvalid => ?_, fun p hp hcode => ?_,
    rfl, rfl, rfl, rfl, rfl, rfl, rfl, rfl⟩
  · have hmode : psrMode v ≠ none := fun h => (modeOfCode_eq_none_iff _).mp h hvalid
    obtain ⟨m, hm⟩ := Option.ne_none_iff_exists'.mp hmode
    exact exec_writeCpsr hr hm
  · have hmode : psrMode v = none := (modeOfCode_eq_none_iff _).mpr hinvalid
    exact ⟨exec_writeCpsr_badMode hr hmode, hmode⟩
  · have hrow : ∀ q ∈ [((0x10 : BitVec 5), Mode.usr), (0x11, .fiq), (0x12, .irq), (0x13, .svc), (0x17, .abt),
        (0x1B, .und), (0x1F, .sys)], modeOfCode q.1 = some q.2 := by decide
    exact (psrMode_of_code hcode).trans (hrow p hp)

/-- Settles O14: User and System mode own no SPSR, and the mode of each of the five codes owns its own. -/
theorem spsrPorts : Obligations.SpsrPorts := by
  intro s v m hr hm
  refine ⟨fun hus => ?_, fun e hcode => ?_⟩
  · have hnone : spsrOf m = none := by rcases hus with rfl | rfl <;> rfl
    exact ⟨exec_regSpsr_unbanked hr hm hnone, exec_writeSpsr_unbanked hr hm hnone v⟩
  · have hmode := psrMode_of_excCode hcode
    have howns := spsrOf_modeOfExc e
    refine ⟨fun hv => ?_, fun u hu => ?_, _, exec_writeSpsr hr hmode howns v,
      SpsrFile.get_set_same _ _ _, fun e' hne => SpsrFile.get_set_other _ _ hne, rfl⟩
    · exact (exec_regSpsr hr hmode howns).trans (withValue_of_none _ _ hv)
    · exact (exec_regSpsr hr hmode howns).trans (withValue_of_some _ _ hu)

/-- Settles O15, by reading the table after a write of one entry. -/
theorem setSwiHleWritesOneEntry : Obligations.SetSwiHleWritesOneEntry := by
  intro s n hook
  refine ⟨fun h => exec_setSwiHle_range h hook s, fun h => ⟨_, exec_setSwiHle h hook s, fun k => ?_, rfl⟩⟩
  have hk : n.toNat = k.val ↔ (k.val : Int) = n := by omega
  simp only [State.withCpu_cpu, Fin.getElem_fin, Vector.getElem_set, hk]

/-- Settles O17: the lines field by field, and `RECHECK` by whether the line was asserted before. -/
theorem setLineChangesTheLines : Obligations.SetLineChangesTheLines := by
  intro s l b
  refine ⟨_, rfl, Lines.change_fiq _ l b, Lines.change_irq _ l b, Lines.change_halt _ l b, ?_, rfl⟩
  change (s.cpu.recheck || (b && !s.cpu.lines.has l)) = _
  cases b <;> cases s.cpu.lines.has l <;> simp

/-- Settles O16: the next IRQ entry reads the base of the coprocessor just stored (`enterException_entered`). -/
theorem setCoprocessorWritesCoproc : Obligations.SetCoprocessorWritesCoproc := by
  intro s c
  have hset : exec (.setCoprocessor c) s = .next (s.withCpu { s.cpu with coproc := c }) := rfl
  refine ⟨hset, fun hr => ⟨enterException .irq (s.withCpu { s.cpu with coproc := c }), ?_,
    (enterException_entered .irq (s.withCpu { s.cpu with coproc := c })).pc⟩⟩
  have hr' : (s.withCpu { s.cpu with coproc := c }).wasReset = true := hr
  rw [runOps_cons_of_next hset, runOps_cons_of_next (exec_dispatchIrq hr'), runOps]

/-- Settles O18: addition of 64-bit words is addition modulo 2^64. -/
theorem clockPorts : Obligations.ClockPorts := by
  intro s n hr
  exact ⟨⟨_, exec_advanceClock hr n, BitVec.toNat_add _ _, rfl⟩, exec_readClock hr⟩

end Sys2Proof.Machine
end

section
/-! PROOFS. The divisor's recompute function (41_divisor.md R176-R183): its three cases in either width, with the
regular one as the library's signed division `sdiv` and `srem`, and the two statements assembled from them. -/

namespace Sys2Proof.Machine

/-! ## Signed division outside the overflow pair -/

/-- Only the least numerator over -1 has a quotient outside the width. -/
theorem toInt_sdiv_of_not_overflow {w : Nat} (hw : 0 < w) (n d : BitVec w)
    (hover : ¬ (d.toInt = -1 ∧ n = BitVec.intMin w)) : (n.sdiv d).toInt = n.toInt.tdiv d.toInt := by
  refine BitVec.toInt_sdiv_of_ne_or_ne n d (not_and_or.mp fun ⟨hn, hd⟩ => hover ⟨?_, hn⟩)
  rw [hd, BitVec.neg_one_eq_allOnes, BitVec.toInt_allOnes, if_pos hw]

/-- The remainder of truncating division, as the statements write it. -/
theorem toInt_srem_eq_sub_tdiv_mul {w : Nat} (n d : BitVec w) :
    (n.srem d).toInt = n.toInt - n.toInt.tdiv d.toInt * d.toInt := by
  rw [BitVec.toInt_srem, Int.tmod_def, Int.mul_comm]

/-! ## The 32-bit division, case by case (R177-R179) -/

theorem divide32_byZero {d : BitVec 32} (n : BitVec 32) (hd : d.toInt = 0) :
    divide32 n d = (if 0 ≤ n.toInt then div0Result32 else ~~~div0Result32, n.signExtend 64) :=
  if_pos hd

theorem divide32_overflow {n d : BitVec 32} (hd : d.toInt = -1) (hn : n = 0x80000000) :
    divide32 n d = (n.setWidth 64, 0) := by
  simp [divide32, hd, hn]

theorem divide32_regular {n d : BitVec 32} (hd : d.toInt ≠ 0) (hover : ¬ (d.toInt = -1 ∧ n = 0x80000000)) :
    divide32 n d = ((n.sdiv d).signExtend 64, (n.srem d).signExtend 64) := by
  have hq : (n.sdiv d).toInt = n.toInt.tdiv d.toInt := toInt_sdiv_of_not_overflow (by decide) n d hover
  have hr : (n.srem d).toInt = n.toInt.tmod d.toInt := BitVec.toInt_srem n d
  rw [BitVec.signExtend, BitVec.signExtend, hq, hr]
  exact (if_neg hd).trans (if_neg hover)

/-! ## The 64-bit division, case by case (R181-R183) -/

theorem divide64_byZero {d : DWord} (n : DWord) (hd : d.toInt = 0) :
    divide64 n d = (if 0 < n.toInt then BitVec.allOnes 64 else 1, n) :=
  if_pos hd

theorem divide64_overflow {n d : DWord} (hd : d.toInt = -1) (hn : n = 0x8000000000000000) :
    divide64 n d = (n, 0) := by
  simp [divide64, hd, hn]

theorem divide64_regular {n d : DWord} (hd : d.toInt ≠ 0)
    (hover : ¬ (d.toInt = -1 ∧ n = 0x8000000000000000)) : divide64 n d = (n.sdiv d, n.srem d) := by
  have hq : (n.sdiv d).toInt = n.toInt.tdiv d.toInt := toInt_sdiv_of_not_overflow (by decide) n d hover
  have hr : (n.srem d).toInt = n.toInt.tmod d.toInt := BitVec.toInt_srem n d
  rw [← BitVec.ofInt_toInt (x := n.sdiv d), ← BitVec.ofInt_toInt (x := n.srem d), hq, hr]
  exact (if_neg hd).trans (if_neg hover)

/-! ## The division a mode selects (R176, R180) -/

/-- The denominator as modes 1 to 3 read it: all of it in mode 2, its sign-extended low half in the others. -/
def wideDenom (mode : BitVec 2) (denom : DWord) : DWord :=
  if mode = 2 then denom else (denom.setWidth 32).signExtend 64

theorem toInt_wideDenom (mode : BitVec 2) (denom : DWord) :
    (wideDenom mode denom).toInt = if mode = 2 then denom.toInt else (denom.setWidth 32).toInt := by
  rw [wideDenom, apply_ite BitVec.toInt, BitVec.toInt_signExtend_of_le (by decide)]

theorem divide_modeZero (numer denom : DWord) :
    divide 0 numer denom = divide32 (numer.setWidth 32) (denom.setWidth 32) := rfl

theorem divide_of_mode_ne_zero {mode : BitVec 2} (hmode : mode ≠ 0) (numer denom : DWord) :
    divide mode numer denom = divide64 numer (wideDenom mode denom) := by
  have hcases : ∀ m : BitVec 2, m ≠ 0 → m = 1 ∨ m = 2 ∨ m = 3 := by decide
  obtain rfl | rfl | rfl := hcases mode hmode <;> rfl

/-! ## The statements -/

/-- Settles O39: the regular quotient is a 32-bit word's value, so it fits and sign extension keeps it. -/
theorem divideModeZero : Obligations.DivideModeZero := by
  intro numer denom n d
  rw [divide_modeZero]
  refine ⟨fun hzero => divide32_byZero _ hzero, fun hd hn => ?_, fun hd hover => ?_⟩
  · rw [divide32_overflow hd hn, hn]
    rfl
  · have hq := toInt_sdiv_of_not_overflow (by decide) (numer.setWidth 32) (denom.setWidth 32) hover
    have hr := toInt_srem_eq_sub_tdiv_mul (numer.setWidth 32) (denom.setWidth 32)
    rw [divide32_regular hd hover, BitVec.toInt_signExtend_of_le (by decide),
      BitVec.toInt_signExtend_of_le (by decide)]
    exact ⟨hq, hr, hq ▸ BitVec.le_toInt _, hq ▸ BitVec.toInt_lt⟩

/-- Settles O40: each of the three modes is the 64-bit division on the denominator it reads. -/
theorem divideModesOneToThree : Obligations.DivideModesOneToThree := by
  intro mode numer denom hmode
  rw [divide_of_mode_ne_zero hmode, ← toInt_wideDenom]
  refine ⟨fun hzero => divide64_byZero _ hzero, fun hd hn => ?_, fun hd hover => ?_⟩
  · rw [divide64_overflow hd hn, hn]
  · rw [divide64_regular hd hover]
    exact ⟨toInt_sdiv_of_not_overflow (by decide) _ _ hover, toInt_srem_eq_sub_tdiv_mul _ _⟩

end Sys2Proof.Machine
end

section
/-! PROOFS. The touchscreen transfer controller (42_touchscreen.md R210-R228): the interpolation and the sample of
each channel, one equation per transfer operation and transfer state, and the statements assembled from them. -/

namespace Sys2Proof.Machine

/-! ## The interpolation (R220-R222) -/

theorem clamp_nonneg (v : Int) : 0 ≤ clamp v := le_min (le_max_right v 0) (by decide)

theorem clamp_le (v : Int) : clamp v ≤ 0xFFF := min_le_right _ _

theorem clamp_of_mem {v : Int} (h0 : 0 ≤ v) (h1 : v ≤ 0xFFF) : clamp v = v := by
  rw [clamp, max_eq_left h0, min_eq_left h1]

theorem interp_zeroSpan (p adc1 adc2 scr : Int) : interp p adc1 scr adc2 scr = clamp adc1 := if_pos rfl

theorem interp_of_ne {scr1 scr2 : Int} (h : scr2 ≠ scr1) (p adc1 adc2 : Int) :
    interp p adc1 scr1 adc2 scr2 = clamp (adc1 + ((p - scr1) * (adc2 - adc1)).tdiv (scr2 - scr1)) :=
  if_neg h

/-- In either case of R220 the value is one of `clamp`. -/
theorem interp_eq_clamp (p adc1 scr1 adc2 scr2 : Int) : ∃ v, interp p adc1 scr1 adc2 scr2 = clamp v := by
  by_cases h : scr2 = scr1
  · exact ⟨_, if_pos h⟩
  · exact ⟨_, if_neg h⟩

theorem interp_mem (p adc1 scr1 adc2 scr2 : Int) :
    0 ≤ interp p adc1 scr1 adc2 scr2 ∧ interp p adc1 scr1 adc2 scr2 ≤ 0xFFF := by
  obtain ⟨v, hv⟩ := interp_eq_clamp p adc1 scr1 adc2 scr2
  exact hv ▸ ⟨clamp_nonneg v, clamp_le v⟩

/-- Calibration points on the diagonal: the quotient is exact, and what is left is `clamp p`. -/
theorem interp_diagonal {a b : Int} (hab : a ≠ b) (p : Int) : interp p a a b b = clamp p := by
  have hspan : b - a ≠ 0 := sub_ne_zero.mpr hab.symm
  rw [interp_of_ne hab.symm, Int.mul_tdiv_cancel _ hspan, add_sub_cancel]

/-! ## The sample of a channel (R216-R219) -/

/-- An interpolation fits the 12 bits of a sample, so the word holds its value. -/
theorem toNat_ofInt_interp (p adc1 scr1 adc2 scr2 : Int) :
    ((BitVec.ofInt 12 (interp p adc1 scr1 adc2 scr2)).toNat : Int) = interp p adc1 scr1 adc2 scr2 := by
  obtain ⟨h0, h1⟩ := interp_mem p adc1 scr1 adc2 scr2
  rw [BitVec.toNat_ofInt, Int.toNat_of_nonneg (Int.emod_nonneg _ (by decide))]
  exact Int.emod_eq_of_lt h0 (Int.lt_of_le_of_lt h1 (by decide))

theorem sample_y_down {pen : Pen} (h : pen.down = true) (cal : Calibration) :
    sample 1 pen cal = BitVec.ofInt 12 (interp pen.y cal.adcY1 cal.scrY1 cal.adcY2 cal.scrY2) := if_pos h

theorem sample_y_up {pen : Pen} (h : pen.down = false) (cal : Calibration) : sample 1 pen cal = 0xFFF :=
  if_neg (Bool.eq_false_iff.mp h)

theorem sample_x_down {pen : Pen} (h : pen.down = true) (cal : Calibration) :
    sample 5 pen cal = BitVec.ofInt 12 (interp pen.x cal.adcX1 cal.scrX1 cal.adcX2 cal.scrX2) := if_pos h

theorem sample_x_up {pen : Pen} (h : pen.down = false) (cal : Calibration) : sample 5 pen cal = 0 :=
  if_neg (Bool.eq_false_iff.mp h)

theorem sample_other {chan : BitVec 3} (h1 : chan ≠ 1) (h5 : chan ≠ 5) (pen : Pen) (cal : Calibration) :
    sample chan pen cal = tscMidscale := by
  unfold sample
  split
  · next h => exact absurd (BitVec.eq_of_toNat_eq h) h1
  · next h => exact absurd (BitVec.eq_of_toNat_eq h) h5
  · rfl

/-! ## The operations -/

theorem exec_beginTransfer_closed {s : State} (h : s.ts = .closed) :
    exec .beginTransfer s = .next (s.withTs .idle) := if_pos h

theorem exec_beginTransfer_open {s : State} (h : s.ts ≠ .closed) :
    exec .beginTransfer s = .fault .tscOverlap := if_neg h

theorem exec_endTransfer_closed {s : State} (h : s.ts = .closed) :
    exec .endTransfer s = .fault .tscNoTransfer := if_pos h

theorem exec_endTransfer_open {s : State} (h : s.ts ≠ .closed) :
    exec .endTransfer s = .next (s.withTs .closed) := if_neg h

theorem exec_setPen (s : State) (down : Bool) (x y : Int) :
    exec (.setPen down x y) s = .next (s.withPen { down := down, x := x, y := y }) := rfl

theorem exec_exchange_closed {s : State} (h : s.ts = .closed) (m : Byte) :
    exec (.exchange m) s = .fault .tscNoTransfer := if_pos h

/-- `exchangeByte_open` with the transfer state `t` by name, so that `exchangeNext` and `exchangeOut` of it
compute. -/
theorem exec_exchange_open {s : State} {t : TscState} (h : s.ts = t) (ht : t ≠ .closed) (m : Byte) :
    exec (.exchange m) s =
      .next ((s.withTs (exchangeNext t m s.pen s.params.cal s.ram)).withReply (.byte (exchangeOut t))) := by
  subst h
  exact exchangeByte_open m ht

theorem State.withTs_withReply_of_eq {s : State} {t : TscState} (h : s.ts = t) (r : Reply) :
    (s.withTs t).withReply r = s.withReply r := by
  subst h
  rfl

/-! ## The statements -/

/-- Settles O48, by the two equations of each operation. -/
theorem transfersOpenAndClose : Obligations.TransfersOpenAndClose := fun _ =>
  ⟨fun hclosed => ⟨exec_beginTransfer_closed hclosed, exec_endTransfer_closed hclosed⟩,
    fun hopen => ⟨exec_beginTransfer_open hopen, exec_endTransfer_open hopen⟩⟩

/-- Settles O49, state by state; in `Drain` alone the state written is the one that was there. -/
theorem exchangeFollowsTheTransferState : Obligations.ExchangeFollowsTheTransferState := by
  intro s m
  refine ⟨fun hclosed => exec_exchange_closed hclosed m, fun hidle => ?_, fun x m8 hdata1 => ?_,
    fun x m8 hdata2 => ?_, fun hdrain => ?_⟩
  · exact exec_exchange_open hidle nofun m
  · exact exec_exchange_open hdata1 nofun m
  · exact exec_exchange_open hdata2 nofun m
  · exact (exec_exchange_open hdrain nofun m).trans
      (congrArg _ (State.withTs_withReply_of_eq hdrain (.byte 0)))

/-- Settles O52: on the two axes the sample is an interpolation, which fits its 12 bits. -/
theorem samplesByChannel : Obligations.SamplesByChannel := by
  intro chan pen cal
  refine ⟨?_, ?_, ?_, ?_, fun h1 h5 => sample_other h1 h5 pen cal⟩
  · rintro rfl hdown
    rw [sample_y_down hdown, toNat_ofInt_interp]
  · rintro rfl hup
    exact sample_y_up hup cal
  · rintro rfl hdown
    rw [sample_x_down hdown, toNat_ofInt_interp]
  · rintro rfl hup
    exact sample_x_up hup cal

/-- Settles O53, by the two cases of R220 and the unit mapping of calibration points on the diagonal. -/
theorem interpolationOnIntegers : Obligations.InterpolationOnIntegers := by
  refine ⟨fun _ => rfl, fun p adc1 scr1 adc2 scr2 => ⟨?_, fun hne => interp_of_ne hne p adc1 adc2,
    interp_mem p adc1 scr1 adc2 scr2⟩, fun p a b h0 h1 hab => ?_⟩
  · rintro rfl
    exact interp_zeroSpan p adc1 adc2 scr2
  · rw [interp_diagonal hab, clamp_of_mem h0 h1]

/-- Settles O56, by the equation of `SetPen`, which has no guard. -/
theorem setPenWritesThePen : Obligations.SetPenWritesThePen := exec_setPen

end Sys2Proof.Machine
end

section
/-! PROOFS. Exceptions (60_exceptions.md R269-R290): one lemma for the direct dispatches, one equation per case of
`DispatchPoint` and of `RestoreCpsrFromSpsr`, and the statements assembled from them. -/

namespace Sys2Proof.Machine

/-- An entry is judged on everything but the reply, so returning a value keeps it. -/
theorem entered_withReply {e : ExcMode} {r14 : Gpr} {ret off : Word} {forceF : Bool} {s t : State}
    (h : Entered e r14 ret off forceF s t) (r : Reply) : Entered e r14 ret off forceF s (t.withReply r) :=
  { h with }

/-! ## The operations after the first `Reset()` -/

section
variable {s : State} (hr : s.wasReset = true)
include hr

/-- Each of the seven direct dispatches is the full entry of its kind. -/
theorem exec_of_dispatchedKind {i : Instr} {k : Kind} (hi : dispatchedKind i = some k) :
    exec i s = .next (enterException k s) := by
  unfold dispatchedKind at hi
  split at hi <;> cases hi
  all_goals exact afterFirstReset_true hr

theorem exec_dispatchedKind_entered {i : Instr} {k : Kind} (hi : dispatchedKind i = some k) :
    ∃ t, exec i s = .next t ∧ t.reply = .none ∧
      Entered (kindMode k) (r14Of (kindMode k)) (returnAddress k s.cpu)
        (BitVec.ofNat 32 (kindOrdinal k * 4)) (kindMasksFiq k) s t :=
  ⟨_, exec_of_dispatchedKind hr hi, enterException_reply k s, enterException_entered k s⟩

theorem exec_dispatchPoint_halted (hhalt : s.cpu.lines.halt = true) :
    exec .dispatchPoint s = .next ((s.withCpu { s.cpu with recheck := false }).withReply .halted) := by
  simp [exec, execDispatchPoint, hr, hhalt]

theorem exec_dispatchPoint_fiq (hhalt : s.cpu.lines.halt = false)
    (hfiq : s.cpu.lines.fiq = true ∧ psrF s.cpu.cpsr = false) :
    exec .dispatchPoint s =
      .next ((enterException .fiq (s.withCpu { s.cpu with recheck := false })).withReply (.taken .fiq)) := by
  simp [exec, execDispatchPoint, hr, hhalt, hfiq]

theorem exec_dispatchPoint_irq (hhalt : s.cpu.lines.halt = false)
    (hfiq : ¬ (s.cpu.lines.fiq = true ∧ psrF s.cpu.cpsr = false))
    (hirq : s.cpu.lines.irq = true ∧ psrI s.cpu.cpsr = false) :
    exec .dispatchPoint s =
      .next ((enterException .irq (s.withCpu { s.cpu with recheck := false })).withReply (.taken .irq)) := by
  simp [exec, execDispatchPoint, hr, hhalt, hfiq, hirq]

theorem exec_dispatchPoint_run (hhalt : s.cpu.lines.halt = false)
    (hfiq : ¬ (s.cpu.lines.fiq = true ∧ psrF s.cpu.cpsr = false))
    (hirq : ¬ (s.cpu.lines.irq = true ∧ psrI s.cpu.cpsr = false)) :
    exec .dispatchPoint s = .next ((s.withCpu { s.cpu with recheck := false }).withReply .run) := by
  simp [exec, execDispatchPoint, hr, hhalt, hfiq, hirq]

theorem exec_restoreCpsrFromSpsr_unbanked {m : Mode} (hm : psrMode s.cpu.cpsr = some m)
    (he : spsrOf m = none) : exec .restoreCpsrFromSpsr s = .fault (.spsrUnbanked m) :=
  (afterFirstReset_true hr).trans (withSpsrMode_of_unbanked _ hm he)

section
variable {m : Mode} {e : ExcMode} (hm : psrMode s.cpu.cpsr = some m) (he : spsrOf m = some e)
include hm he

theorem exec_restoreCpsrFromSpsr_unwritten (hv : s.cpu.spsr.get e = none) :
    exec .restoreCpsrFromSpsr s = .fault (.unwritten (.spsr e)) :=
  (afterFirstReset_true hr).trans ((withSpsrMode_of_owner _ hm he).trans (withValue_of_none _ _ hv))

theorem exec_restoreCpsrFromSpsr_badMode {v : Word} (hv : s.cpu.spsr.get e = some v)
    (hbad : psrMode v = none) : exec .restoreCpsrFromSpsr s = .fault (.badMode v) := by
  simp [exec, execRestoreCpsrFromSpsr, restoreCpsr, hr, withSpsrMode_of_owner _ hm he,
    withValue_of_some _ _ hv, hbad]

theorem exec_restoreCpsrFromSpsr {v : Word} {m2 : Mode} (hv : s.cpu.spsr.get e = some v)
    (hvalid : psrMode v = some m2) :
    exec .restoreCpsrFromSpsr s = .next (s.withCpu { s.cpu with cpsr := v }) := by
  simp [exec, execRestoreCpsrFromSpsr, restoreCpsr, hr, withSpsrMode_of_owner _ hm he,
    withValue_of_some _ _ hv, hvalid]

end

end

/-! ## The statements -/

/-- Settles O20: the return offset of Reset is 0 in both widths (R95). -/
theorem dispatchResetEntersSvc : Obligations.DispatchResetEntersSvc := by
  intro s hr
  have hret : returnAddress .reset s.cpu = s.cpu.pc := BitVec.add_zero _
  exact hret ▸ exec_dispatchedKind_entered hr (i := .dispatchReset) rfl

/-- Settles O21, as the entry of its kind. -/
theorem dispatchUndefinedEntersUnd : Obligations.DispatchUndefinedEntersUnd := fun _ hr =>
  exec_dispatchedKind_entered hr (i := .dispatchUndefined) rfl

/-- Settles O25, as the entry of its kind. -/
theorem dispatchPrefetchAbortEntersAbt : Obligations.DispatchPrefetchAbortEntersAbt := fun _ hr =>
  exec_dispatchedKind_entered hr (i := .dispatchPrefetchAbort) rfl

/-- Settles O26, as the entry of its kind. -/
theorem dispatchDataAbortEntersAbt : Obligations.DispatchDataAbortEntersAbt := fun _ hr =>
  exec_dispatchedKind_entered hr (i := .dispatchDataAbort) rfl

/-- Settles O27, as the entry of its kind. -/
theorem dispatchAddressOverflowEntersSvc : Obligations.DispatchAddressOverflowEntersSvc := fun _ hr =>
  exec_dispatchedKind_entered hr (i := .dispatchAddressOverflow) rfl

/-- Settles O28, as the entry of its kind. -/
theorem dispatchIrqEntersIrq : Obligations.DispatchIrqEntersIrq := fun _ hr =>
  exec_dispatchedKind_entered hr (i := .dispatchIrq) rfl

/-- Settles O29, as the entry of its kind. -/
theorem dispatchFiqEntersFiq : Obligations.DispatchFiqEntersFiq := fun _ hr =>
  exec_dispatchedKind_entered hr (i := .dispatchFiq) rfl

/-- Settles O30: an interrupt taken is the entry of its kind from the state with `RECHECK` cleared. -/
theorem dispatchPointSamplesTheLines : Obligations.DispatchPointSamplesTheLines := by
  intro s hr s0 takeFiq takeIrq
  refine ⟨fun hhalt => exec_dispatchPoint_halted hr hhalt,
    fun hhalt hfiq => ⟨_, exec_dispatchPoint_fiq hr hhalt hfiq, rfl, ?_⟩,
    fun hhalt hfiq hirq => ⟨_, exec_dispatchPoint_irq hr hhalt hfiq hirq, rfl, ?_⟩,
    fun hhalt hfiq hirq => exec_dispatchPoint_run hr hhalt hfiq hirq⟩
  · exact entered_withReply (enterException_entered .fiq s0) (.taken .fiq)
  · exact entered_withReply (enterException_entered .irq s0) (.taken .irq)

/-- Settles O32: User and System mode own no SPSR, and the mode of each of the five codes owns its own. -/
theorem restoreCpsrFromTheModesSpsr : Obligations.RestoreCpsrFromTheModesSpsr := by
  intro s m hr hm
  refine ⟨fun hus => ?_, fun e hcode => ?_⟩
  · have hnone : spsrOf m = none := by rcases hus with rfl | rfl <;> rfl
    exact exec_restoreCpsrFromSpsr_unbanked hr hm hnone
  · have hmode := psrMode_of_excCode hcode
    have howns := spsrOf_modeOfExc e
    exact ⟨fun hv => exec_restoreCpsrFromSpsr_unwritten hr hmode howns hv,
      fun v hv hbad => exec_restoreCpsrFromSpsr_badMode hr hmode howns hv hbad,
      fun v m2 hv hvalid => exec_restoreCpsrFromSpsr hr hmode howns hv hvalid⟩

end Sys2Proof.Machine
end

section
/-! PROOFS. Reset (70_reset_and_hazards.md R320-R324): `Reset()` is the Reset entry of the state it prepares. -/

namespace Sys2Proof.Machine

/-- The state that `Reset()` takes its entry from: `PC`, `RECHECK` and `CLOCK` zeroed (R320), the divisor and the
transfer reset (R323, R324), and the block marked as reset. -/
def resetPrepared (s : State) : State :=
  { s with
    cpu := { s.cpu with pc := 0, recheck := false, clock := 0 }
    div := { cnt := 0, numer := 0, denom := 0, result := 0, rem := 0 }
    ts := .closed
    wasReset := true }

/-- An entry neither reads nor writes what the peripheral resets write, so they may as well come before it. -/
theorem exec_reset (s : State) : exec .reset s = .next (enterException .reset (resetPrepared s)) := rfl

/-- The return offset of Reset is 0 in both widths (R95). -/
theorem returnAddress_reset (c : Cpu) : returnAddress .reset c = c.pc := BitVec.add_zero _

theorem enterException_reset_entered (s : State) :
    Entered .svc .r14svc s.cpu.pc 0x00 true s (enterException .reset s) :=
  returnAddress_reset s.cpu ▸ enterException_entered .reset s

/-- Settles O37: the Reset entry of the prepared state, whose `PC` is 0 and whose transfer is closed. -/
theorem resetWritesWhatItNames : Obligations.ResetWritesWhatItNames := by
  intro s
  have hentered := enterException_reset_entered (resetPrepared s)
  have hclosed : (enterException .reset (resetPrepared s)).ts = .closed := hentered.ts
  exact ⟨_, exec_reset s, enterException_reply .reset _, hentered.wasReset,
    ⟨_, exec_beginTransfer_closed hclosed⟩, hentered⟩

end Sys2Proof.Machine
end

section
/-! PROOFS. The decoder and the encoder (30_encoding.md R97, R113, R119): what each operand reader accepts, and the
round trip in both directions. -/

namespace Sys2Proof

open Machine

/-! ## Little-endian words (R64) -/

theorem byteAt_append_low {w : Nat} (hi : BitVec w) (b : Byte) : byteAt (hi ++ b) 0 = b :=
  BitVec.extractLsb'_append_eq_right

theorem byteAt_append_succ {w : Nat} (hi : BitVec w) (b : Byte) (k : Nat) :
    byteAt (hi ++ b) (k + 1) = byteAt hi k := by
  rw [byteAt, BitVec.extractLsb'_append_eq_of_le (by omega), byteAt, Nat.mul_succ, Nat.add_sub_cancel]

theorem byteAt_zero (b : Byte) : byteAt b 0 = b := BitVec.extractLsb'_eq_self

theorem le32_of_bytes (b0 b1 b2 b3 : Byte) : le32 (b3 ++ b2 ++ b1 ++ b0) = [b0, b1, b2, b3] := by
  simp only [le32, byteAt_append_low, byteAt_append_succ _ _ 0, byteAt_append_succ _ _ 1,
    byteAt_append_succ _ _ 2, byteAt_zero]

theorem le64_of_bytes (b0 b1 b2 b3 b4 b5 b6 b7 : Byte) :
    le64 (b7 ++ b6 ++ b5 ++ b4 ++ b3 ++ b2 ++ b1 ++ b0) = [b0, b1, b2, b3, b4, b5, b6, b7] := by
  simp only [le64, byteAt_append_low, byteAt_append_succ _ _ 0, byteAt_append_succ _ _ 1,
    byteAt_append_succ _ _ 2, byteAt_append_succ _ _ 3, byteAt_append_succ _ _ 4, byteAt_append_succ _ _ 5,
    byteAt_append_succ _ _ 6, byteAt_zero]

/-! ## What each reader accepts: exactly what its encoder writes -/

theorem read32_eq_ok {bs r : List Byte} {v : BitVec 32} : read32 bs = .ok (v, r) ↔ bs = le32 v ++ r := by
  refine ⟨fun h => ?_, fun h => h ▸ read32_le32 v r⟩
  unfold read32 at h
  split at h <;> cases h
  rw [le32_of_bytes]
  rfl

theorem read64_eq_ok {bs r : List Byte} {v : BitVec 64} : read64 bs = .ok (v, r) ↔ bs = le64 v ++ r := by
  refine ⟨fun h => ?_, fun h => h ▸ read64_le64 v r⟩
  unfold read64 at h
  split at h <;> cases h
  rw [le64_of_bytes]
  rfl

theorem read8_eq_ok {bs r : List Byte} {b : Byte} : read8 bs = .ok (b, r) ↔ bs = b :: r := by
  refine ⟨fun h => ?_, fun h => h ▸ read8_cons b r⟩
  unfold read8 at h
  split at h <;> cases h
  rfl

theorem intFits_toInt (v : BitVec 64) : intFits v.toInt = true := by
  simp only [intFits, Bool.and_eq_true, decide_eq_true_eq]
  exact ⟨BitVec.le_toInt v, BitVec.toInt_lt⟩

theorem readInt_eq_ok {bs r : List Byte} {n : Int} :
    readInt bs = .ok (n, r) ↔ intFits n = true ∧ bs = encInt n ++ r := by
  refine ⟨fun h => ?_, fun ⟨hn, h⟩ => h ▸ readInt_encInt r hn⟩
  unfold readInt at h
  split at h <;> cases h
  next v hv => exact ⟨intFits_toInt v, by rw [read64_eq_ok.mp hv, encInt, BitVec.ofInt_toInt]⟩

theorem readRegNo_eq_ok {bs r : List Byte} {i : BitVec 4} :
    readRegNo bs = .ok (i, r) ↔ bs = i.setWidth 8 :: r := by
  refine ⟨fun h => ?_, fun h => h ▸ readRegNo_enc i r⟩
  unfold readRegNo at h
  repeat' split at h
  all_goals cases h
  next b hb =>
    have hzext : b = (b.setWidth 4).setWidth 8 := by
      apply BitVec.eq_of_toNat_eq
      simp only [BitVec.toNat_setWidth]
      omega
    rw [← hzext]

theorem readPhysName_eq_ok {bs r : List Byte} {p : PhysReg} :
    readPhysName bs = .ok (p, r) ↔ bs = encPhysName p :: r := by
  refine ⟨fun h => ?_, fun h => h ▸ readPhysName_enc p r⟩
  unfold readPhysName at h
  repeat' split at h
  all_goals cases h
  next b _ hb =>
    have hname : ∀ b : Byte, ∀ p ∈ physRegs[b.toNat]?, b = encPhysName p := by decide
    rw [← hname b p hb]

theorem readBool_eq_ok {bs r : List Byte} {b : Bool} : readBool bs = .ok (b, r) ↔ bs = encBool b :: r := by
  refine ⟨fun h => ?_, fun h => h ▸ readBool_encBool b r⟩
  unfold readBool at h
  repeat' split at h
  all_goals cases h
  all_goals subst_vars; rfl

theorem readOptId_eq_ok {bs r : List Byte} {c : Option (BitVec 32)} :
    readOptId bs = .ok (c, r) ↔ bs = encOptId c ++ r := by
  refine ⟨fun h => ?_, fun h => h ▸ readOptId_encOptId c r⟩
  unfold readOptId at h
  repeat' split at h
  all_goals cases h
  next hb => exact readBool_eq_ok.mp hb
  next hb _ _ hv => rw [readBool_eq_ok.mp hb, read32_eq_ok.mp hv]; rfl

theorem readLine_eq_ok {bs r : List Byte} {l : Line} : readLine bs = .ok (l, r) ↔ bs = encLine l :: r := by
  refine ⟨fun h => ?_, fun h => h ▸ readLine_encLine l r⟩
  unfold readLine at h
  repeat' split at h
  all_goals cases h
  all_goals subst_vars; rfl

theorem readSize_eq_ok {bs r : List Byte} {z : AccessSize} : readSize bs = .ok (z, r) ↔ bs = encSize z :: r := by
  refine ⟨fun h => ?_, fun h => h ▸ readSize_encSize z r⟩
  unfold readSize at h
  repeat' split at h
  all_goals cases h
  all_goals subst_vars; rfl

theorem readResultReg_eq_ok {bs r : List Byte} {q : ResultReg} :
    readResultReg bs = .ok (q, r) ↔ bs = encResultReg q :: r := by
  refine ⟨fun h => ?_, fun h => h ▸ readResultReg_enc q r⟩
  unfold readResultReg at h
  repeat' split at h
  all_goals cases h
  all_goals subst_vars; rfl

theorem readDataReg_eq_ok {bs r : List Byte} {q : DataReg} :
    readDataReg bs = .ok (q, r) ↔ bs = encDataReg q :: r := by
  refine ⟨fun h => ?_, fun h => h ▸ readDataReg_enc q r⟩
  unfold readDataReg at h
  repeat' split at h
  all_goals cases h
  all_goals subst_vars; rfl

theorem readAccess_eq_ok {bs r : List Byte} {acc : BusAccess} :
    readAccess bs = .ok (acc, r) ↔ intFits acc.bank = true ∧ bs = encAccess acc ++ r := by
  refine ⟨fun h => ?_, fun ⟨hb, h⟩ => h ▸ readAccess_enc r hb⟩
  unfold readAccess at h
  repeat' split at h
  all_goals cases h
  next disp r1 hdisp _ bank r2 hbank _ size hsize =>
    obtain ⟨hfits, hbank⟩ := readInt_eq_ok.mp hbank
    refine ⟨hfits, ?_⟩
    rw [read32_eq_ok.mp hdisp, hbank, readSize_eq_ok.mp hsize]
    simp [encAccess]

theorem finish_eq_ok {r : List Byte} {i j : Instr} :
    finish r i = .ok j ↔ i = j ∧ ∃ k, r = List.replicate k 0 := by
  refine ⟨fun h => ?_, ?_⟩
  · obtain ⟨hj, hr⟩ := finish_ok h
    exact ⟨hj.symm, hr⟩
  · rintro ⟨rfl, k, rfl⟩
    exact finish_zeros k i

theorem ok_bind {α β : Type} (a : α) (f : α → Except DecodeError β) :
    ((.ok a : Except DecodeError α) >>= f) = f a := rfl

/-- A sequence of readers answers exactly where each of them does. -/
theorem bind_eq_ok {α β : Type} {x : Except DecodeError α} {f : α → Except DecodeError β} {b : β} :
    (x >>= f) = .ok b ↔ ∃ a, x = .ok a ∧ f a = .ok b := by
  cases x with
  | error e => exact ⟨nofun, nofun⟩
  | ok a => exact ⟨fun h => ⟨a, rfl, h⟩, fun ⟨_, ha, h⟩ => by cases ha; exact h⟩

/-! ## The bytes of the SPI channel (R113) -/

/-- Every byte is the encoding of the operation it is read as. -/
theorem encode_decodeTscByte : ∀ m : Byte, encode (decodeTscByte m) = [m] := by decide

theorem channel_decodeTscByte : ∀ m : Byte, (decodeTscByte m).channel = .tsc := by decide

theorem wellFormed_decodeTscByte : ∀ m : Byte, (decodeTscByte m).wellFormed = true := by decide

/-- Every operation of the channel is encoded as one byte, which is read as that operation. -/
theorem encode_tsc {i : Instr} (hch : i.channel = .tsc) : ∃ m, encode i = [m] ∧ decodeTscByte m = i := by
  cases i <;> cases hch
  case tscNonstart.refl x => exact ⟨_, rfl, by revert x; decide⟩
  all_goals
    rename_i m8 ref pd
    exact ⟨_, rfl, by revert m8 ref pd; decide⟩

/-! ## The SWI words (R97) -/

theorem swiArm_fields (cond : BitVec 4) (imm24 : BitVec 24) :
    (cond ++ (0xF : BitVec 4) ++ imm24).extractLsb' 24 4 = 0xF ∧
    (cond ++ (0xF : BitVec 4) ++ imm24).extractLsb' 28 4 = cond ∧
    (cond ++ (0xF : BitVec 4) ++ imm24).extractLsb' 0 24 = imm24 := by
  refine ⟨?_, ?_, BitVec.extractLsb'_append_eq_right⟩
  · rw [BitVec.extractLsb'_append_eq_of_le (by decide)]
    exact BitVec.extractLsb'_append_eq_right
  · rw [BitVec.extractLsb'_append_eq_of_le (by decide)]
    exact BitVec.extractLsb'_append_eq_left

theorem swiArm_of_fields {w : BitVec 32} (h : w.extractLsb' 24 4 = 0xF) :
    w.extractLsb' 28 4 ++ (0xF : BitVec 4) ++ w.extractLsb' 0 24 = w := by
  have hbyte : w.extractLsb' 28 4 ++ (0xF : BitVec 4) = w.extractLsb' 24 8 := by
    rw [← h]
    exact BitVec.extractLsb'_append_extractLsb'_eq_extractLsb' rfl
  rw [hbyte]
  exact BitVec.extractLsb'_append_extractLsb'

/-- What it is for the frame `bs` of channel `ch` to carry `i`: `i` is an operation of that channel and the frame is
its encoding, padded with zeros. -/
def Carries (ch : Channel) (bs : List Byte) (i : Instr) : Prop :=
  i.wellFormed = true ∧ i.channel = ch ∧ ∃ k, bs = encode i ++ List.replicate k 0

theorem carries_of_decodeArm {bs : List Byte} {i : Instr} (h : decodeArm bs = .ok i) : Carries .arm bs i := by
  unfold decodeArm at h
  repeat' split at h
  · cases h
  · next w r hw hop =>
    obtain ⟨rfl, k, rfl⟩ := finish_eq_ok.mp h
    refine ⟨rfl, rfl, k, ?_⟩
    rw [read32_eq_ok.mp hw, encode, swiArm_of_fields hop]
  · cases h

theorem carries_of_decodeThumb {bs : List Byte} {i : Instr} (h : decodeThumb bs = .ok i) :
    Carries .thumb bs i := by
  unfold decodeThumb at h
  repeat' split at h
  · next b0 b1 r hop =>
    obtain ⟨rfl, k, rfl⟩ := finish_eq_ok.mp h
    exact ⟨rfl, rfl, k, by rw [hop]; rfl⟩
  · cases h
  · cases h

theorem carries_of_decodeTsc {bs : List Byte} {i : Instr} (h : decodeTsc bs = .ok i) : Carries .tsc bs i := by
  unfold decodeTsc at h
  split at h
  · cases h
  · next m r =>
    obtain ⟨rfl, k, rfl⟩ := finish_eq_ok.mp h
    refine ⟨wellFormed_decodeTscByte m, channel_decodeTscByte m, k, ?_⟩
    rw [encode_decodeTscByte]
    rfl

theorem carries_of_decodePlain {opc : Byte} {r : List Byte} {i j : Instr} (hi : decodePlain opc = some i)
    (h : finish r i = .ok j) : Carries .port (opc :: r) j := by
  obtain ⟨rfl, k, rfl⟩ := finish_eq_ok.mp h
  have hplain : ∀ opc : Byte, ∀ i ∈ decodePlain opc,
      i.wellFormed = true ∧ i.channel = .port ∧ encode i = [opc] := by decide
  obtain ⟨hwf, hch, henc⟩ := hplain opc i hi
  exact ⟨hwf, hch, k, by rw [henc]; rfl⟩

theorem eq_ofNat_of_toNat_eq {b : Byte} {n : Nat} (h : b.toNat = n) : b = BitVec.ofNat 8 n := by
  rw [← h, BitVec.ofNat_toNat, BitVec.setWidth_eq]

/-- Each arm is a sequence of readers; the arms are grouped by the operands they read, and in which of them an integer
stands. -/
theorem carries_of_decodeOperands {opc : Byte} {bs : List Byte} {i : Instr}
    (h : decodeOperands opc bs = .ok i) : Carries .port (opc :: bs) i := by
  unfold decodeOperands at h
  split at h
  case h_20 => cases h
  all_goals
    rename_i hopc
    obtain rfl := eq_ofNat_of_toNat_eq hopc
    simp only [bind_eq_ok, Prod.exists, read8_eq_ok, read32_eq_ok, read64_eq_ok, readInt_eq_ok, readRegNo_eq_ok,
      readPhysName_eq_ok, readBool_eq_ok, readOptId_eq_ok, readLine_eq_ok, readResultReg_eq_ok, readDataReg_eq_ok,
      readAccess_eq_ok, finish_eq_ok] at h
  case h_1 | h_3 | h_4 | h_6 | h_8 | h_10 | h_11 | h_18 => -- one operand
    obtain ⟨_, _, rfl, rfl, k, rfl⟩ := h
    exact ⟨rfl, rfl, k, rfl⟩
  case h_2 | h_5 | h_9 => -- two operands
    obtain ⟨_, _, rfl, _, _, rfl, rfl, k, rfl⟩ := h
    exact ⟨rfl, rfl, k, rfl⟩
  case h_16 => -- `busReadDivcnt`: an access
    obtain ⟨_, _, ⟨hbank, rfl⟩, rfl, k, rfl⟩ := h
    exact ⟨hbank, rfl, k, rfl⟩
  case h_7 | h_12 | h_13 | h_14 => -- an integer or an access, and one operand more
    obtain ⟨_, _, ⟨hint, rfl⟩, _, _, rfl, rfl, k, rfl⟩ := h
    exact ⟨hint, rfl, k, by simp [encode]⟩
  case h_17 => -- `busReadDivData`: a register and an access
    obtain ⟨_, _, rfl, _, _, ⟨hbank, rfl⟩, rfl, k, rfl⟩ := h
    exact ⟨hbank, rfl, k, rfl⟩
  case h_15 => -- `busWriteDivResult`: a register, an access and the data
    obtain ⟨_, _, rfl, _, _, ⟨hbank, rfl⟩, _, _, rfl, rfl, k, rfl⟩ := h
    exact ⟨hbank, rfl, k, by simp [encode]⟩
  case h_19 => -- `setPen`: a bool and two integers
    obtain ⟨_, _, rfl, _, _, ⟨hx, rfl⟩, _, _, ⟨hy, rfl⟩, rfl, k, rfl⟩ := h
    exact ⟨by simp [Instr.wellFormed, hx, hy], rfl, k, by simp [encode]⟩

theorem carries_of_decodePort {bs : List Byte} {i : Instr} (h : decodePort bs = .ok i) : Carries .port bs i := by
  unfold decodePort at h
  repeat' split at h
  · cases h
  · exact carries_of_decodePlain ‹_› h
  · exact carries_of_decodeOperands h

/-! ## Decoding an encoding -/

/-- Each reader takes back what its encoder wrote, and the padding is left for the end of the frame. -/
theorem decodePort_encode {i : Instr} (k : Nat) (hch : i.channel = .port) (hwf : i.wellFormed = true) :
    decodePort (encode i ++ List.replicate k 0) = .ok i := by
  refine Eq.trans ?_ (finish_zeros k i)
  cases i <;> cases hch
  case setSwiHle.refl n hook =>
    simp [encode, decodePort, decodePlain, decodeOperands, ok_bind, readInt_encInt _ hwf]
  case setPen.refl down x y =>
    obtain ⟨hx, hy⟩ := Bool.and_eq_true_iff.mp hwf
    simp [encode, decodePort, decodePlain, decodeOperands, ok_bind, readInt_encInt _ hx, readInt_encInt _ hy]
  case busReadDivcnt.refl | busReadDivData.refl | busWriteDivcnt.refl | busWriteDivNumer.refl
      | busWriteDivDenom.refl | busWriteDivResult.refl =>
    simp [encode, decodePort, decodePlain, decodeOperands, ok_bind, readAccess_enc _ hwf]
  all_goals simp [encode, decodePort, decodePlain, decodeOperands, ok_bind]

theorem decodeTsc_encode {i : Instr} (k : Nat) (hch : i.channel = .tsc) :
    decodeTsc (encode i ++ List.replicate k 0) = .ok i := by
  obtain ⟨m, henc, hdec⟩ := encode_tsc hch
  rw [henc, ← hdec]
  exact finish_zeros k _

theorem decodeArm_encode (k : Nat) (cond : BitVec 4) (imm24 : BitVec 24) :
    decodeArm (encode (.swiArm cond imm24) ++ List.replicate k 0) = .ok (.swiArm cond imm24) := by
  obtain ⟨hop, hcond, himm⟩ := swiArm_fields cond imm24
  rw [encode, decodeArm, read32_le32]
  simp only [hop, hcond, himm, if_true, finish_zeros]

theorem decodeThumb_encode (k : Nat) (imm8 : Byte) :
    decodeThumb (encode (.swiThumb imm8) ++ List.replicate k 0) = .ok (.swiThumb imm8) :=
  finish_zeros k _

/-! ## The statements -/

/-- Settles O6, channel by channel: whatever a decoder accepts is what the encoder writes. -/
theorem decodedFramesAreEncodings : Obligations.DecodedFramesAreEncodings := by
  intro ch bs i h
  cases ch with
  | port => exact carries_of_decodePort h
  | tsc => exact carries_of_decodeTsc h
  | arm => exact carries_of_decodeArm h
  | thumb => exact carries_of_decodeThumb h

/-- Settles O5, channel by channel, by the operations of each. -/
theorem decodeOfEncodeIsIdentity : Obligations.DecodeOfEncodeIsIdentity := by
  intro i k hwf
  cases hch : i.channel with
  | port => exact decodePort_encode k hch hwf
  | tsc => exact decodeTsc_encode k hch
  | arm =>
    cases i <;> cases hch
    exact decodeArm_encode k _ _
  | thumb =>
    cases i <;> cases hch
    exact decodeThumb_encode k _

/-- Settles O4: each frame is written out, so the decoder computes its operation. -/
theorem specWordsDecode : Obligations.SpecWordsDecode := by
  unfold Obligations.SpecWordsDecode
  decide

/-! ## Frames that are no operation -/

theorem decodePlain_unlisted : ∀ {opc : Byte}, listedOpcode opc = false → decodePlain opc = none := by decide

/-- The command codes of operations with operands are listed, so any other code ends in the last arm. -/
theorem decodeOperands_unlisted {opc : Byte} (r : List Byte) (h : listedOpcode opc = false) :
    decodeOperands opc r = .error (.unlistedOpcode opc) := by
  unfold decodeOperands
  split
  case h_20 => rfl
  all_goals
    rename_i hopc
    obtain rfl := eq_ofNat_of_toNat_eq hopc
    cases h

theorem decodePort_unlisted {opc : Byte} (r : List Byte) (h : listedOpcode opc = false) :
    decodePort (opc :: r) = .error (.unlistedOpcode opc) := by
  simp only [decodePort, decodePlain_unlisted h, decodeOperands_unlisted r h]

/-- Settles O24: each word is the encoding of its SWI, and both instructions dispatch with their `imm8`. -/
theorem swiInstructionsCarryTheirNumber : Obligations.SwiInstructionsCarryTheirNumber := by
  refine ⟨fun w s hop => ⟨?_, ?_⟩, fun w s hop => ⟨?_, rfl⟩⟩
  · have h := decodeOfEncodeIsIdentity (.swiArm (w.extractLsb' 28 4) (w.extractLsb' 0 24)) 0 rfl
    rwa [encode, swiArm_of_fields hop] at h
  · have himm : armImm8 (w.extractLsb' 0 24) = w.extractLsb' 16 8 :=
      BitVec.extractLsb'_extractLsb'_of_le (by decide)
    exact congrArg (dispatchSwi · s) himm
  · have h := decodeOfEncodeIsIdentity (.swiThumb (w.extractLsb' 0 8)) 0 rfl
    rwa [encode, ← hop] at h

end Sys2Proof
end

section
/-! PROOFS. The step (00_scope.md R5, R6; 20_memory.md R74): one equation per kind of input, what every step keeps, and
the states that meet the invariant. -/

namespace Sys2Proof.Machine

/-! ## The next input -/

section
variable {s : State} {rest : List Input}

theorem step_quiet (h : s.input = []) : step s = .next s := by
  simp only [step, fetch, h]

theorem step_ram {addr : BitVec 32} {b : Byte} (h : s.input = .ram addr b :: rest) :
    step s = .next ((s.withInput rest).pokeRam addr b) := by
  simp only [step, fetch, h]

theorem step_op {ch : Channel} {bytes : List Byte} {i : Instr} (h : s.input = .op ch bytes :: rest)
    (hdec : decode ch bytes = .ok i) : step s = exec i (s.withInput rest) := by
  simp only [step, fetch, h, hdec]

theorem step_bad {ch : Channel} {bytes : List Byte} {e : DecodeError} (h : s.input = .op ch bytes :: rest)
    (hdec : decode ch bytes = .error e) : step s = .refused (.undecodable e) := by
  simp only [step, fetch, h, hdec]

end

/-- Settles O1, as the step on a frame that decodes. -/
theorem stepRunsTheNextOperation : Obligations.StepRunsTheNextOperation := fun _ _ _ _ _ h hdec =>
  step_op h hdec

/-- Settles O2: no arm of the decoder takes an unlisted code. -/
theorem stepRefusesUnlistedCommandCode : Obligations.StepRefusesUnlistedCommandCode := fun _ _ r _ h hopc =>
  step_bad h (decodePort_unlisted r hopc)

/-- Settles O3, by reading canonical RAM after a write (`Memory.read_write`). -/
theorem stepAppliesTheEnvironmentsRamWrite : Obligations.StepAppliesTheEnvironmentsRamWrite :=
  ⟨fun _ addr b _ hwf h => ⟨_, step_ram h, fun a => Memory.read_write addr.toNat a b hwf, rfl⟩,
    fun _ h => step_quiet h⟩

/-- Everything a step can do when it answers a next state. -/
theorem step_next {s t : State} (h : step s = .next t) :
    t = s ∨ (∃ addr b rest, t = (s.withInput rest).pokeRam addr b) ∨
      ∃ i rest, exec i (s.withInput rest) = .next t := by
  match hin : s.input with
  | [] =>
    rw [step_quiet hin] at h
    cases h
    exact .inl rfl
  | .ram addr b :: rest =>
    rw [step_ram hin] at h
    cases h
    exact .inr (.inl ⟨addr, b, rest, rfl⟩)
  | .op ch bytes :: rest =>
    match hdec : decode ch bytes with
    | .ok i => exact .inr (.inr ⟨i, rest, step_op hin hdec ▸ h⟩)
    | .error e =>
      rw [step_bad hin hdec] at h
      cases h

/-- A fault is one of the operation the next frame decodes to. -/
theorem step_fault {s : State} {f : Fault} (h : step s = .fault f) :
    ∃ i rest, exec i (s.withInput rest) = .fault f := by
  match hin : s.input with
  | [] => exact absurd (step_quiet hin ▸ h) nofun
  | .ram addr b :: rest => exact absurd (step_ram hin ▸ h) nofun
  | .op ch bytes :: rest =>
    match hdec : decode ch bytes with
    | .ok i => exact ⟨i, rest, step_op hin hdec ▸ h⟩
    | .error e => exact absurd (step_bad hin hdec ▸ h) nofun

end Sys2Proof.Machine

namespace Sys2Proof

open Machine

/-! ## The invariant -/

/-- The invariant reads nothing but these fields. -/
theorem Inv.congr {s t : State} (h : Inv s) (hcpsr : t.cpu.cpsr = s.cpu.cpsr) (hregs : t.cpu.regs = s.cpu.regs)
    (hspsr : t.cpu.spsr = s.cpu.spsr) (hclock : t.cpu.clock = s.cpu.clock) (hreset : t.wasReset = s.wasReset)
    (hdiv : t.div = s.div) (hram : t.ram = s.ram) (hparams : t.params = s.params) : Inv t where
  modeValid := by rw [hreset, hcpsr]; exact h.modeValid
  untouched := by rw [hreset, hregs, hspsr, hclock]; exact h.untouched
  divcntReserved := hdiv ▸ h.divcntReserved
  divResults := hdiv ▸ h.divResults
  ramForm := hram ▸ h.ramForm
  paramsForm := hparams ▸ h.paramsForm

/-- After the first `Reset()` a valid mode is all the invariant asks of the CPU. -/
theorem Inv.of_mode {s t : State} (h : Inv s) {m : Mode} (hm : psrMode t.cpu.cpsr = some m)
    (hreset : t.wasReset = true) (hdiv : t.div = s.div) (hram : t.ram = s.ram) (hparams : t.params = s.params) :
    Inv t where
  modeValid _ := ⟨m, hm⟩
  untouched hr := absurd (hreset.symm.trans hr) nofun
  divcntReserved := hdiv ▸ h.divcntReserved
  divResults := hdiv ▸ h.divResults
  ramForm := hram ▸ h.ramForm
  paramsForm := hparams ▸ h.paramsForm

theorem Inv.after_recompute {s : State} (h : Inv s) {d : Divisor} (hd : d.cnt &&& 0xFFFC = s.div.cnt &&& 0xFFFC) :
    Inv (s.withDiv d.recompute) :=
  { h with
    divcntReserved := hd.trans h.divcntReserved
    divResults := .inr rfl }

theorem Inv.after_pokeRam {s : State} (h : Inv s) (addr : BitVec 32) (b : Byte) : Inv (s.pokeRam addr b) :=
  { h with ramForm := Memory.wf_write b h.ramForm addr.isLt }

theorem divcntReserved_zero : Divisor.zero.cnt &&& 0xFFFC = 0 := by decide

theorem Inv.after_resetBlock {s : State} (h : Inv s) : Inv (resetBlock s) where
  modeValid _ := ⟨.svc, entryPsr_mode .reset s.cpu.cpsr⟩
  untouched hr := by cases hr
  divcntReserved := divcntReserved_zero
  divResults := .inl rfl
  ramForm := h.ramForm
  paramsForm := h.paramsForm

/-- An operation leaves the fields the invariant reads, or runs after the first `Reset()` and ends in a valid mode, or
recomputes, or is `Reset()`. -/
theorem Inv.after_effect {i : Instr} {s t : State} (h : Inv s) (he : Effect i s t) : Inv t := by
  cases he with
  | returned | sampled | setHle | setCoproc | setLine | discarded | transferred | exchanged | pen =>
    exact h.congr rfl rfl rfl rfl rfl rfl rfl rfl
  | entered k hi hr => exact h.of_mode (entryPsr_mode k _) hr rfl rfl rfl
  | swi imm8 hi hr => exact h.of_mode (entryPsr_mode .softwareInterrupt _) hr rfl rfl rfl
  | taken k hr => exact h.of_mode (entryPsr_mode k _) hr rfl rfl rfl
  | hooked imm8 k m hi hr hh hm => exact h.of_mode hm hr rfl rfl rfl
  | restored m e v m2 hr hm he hv hm2 => exact h.of_mode hm2 hr rfl rfl rfl
  | wroteCpsr v m hr hm => exact h.of_mode hm hr rfl rfl rfl
  | wroteReg k v m hr hm =>
    exact h.of_mode (m := m) (by rwa [State.withCpu_cpu, Cpu.writePhys_cpsr]) hr rfl rfl rfl
  | wrotePhys r v hr =>
    obtain ⟨m, hm⟩ := h.modeValid hr
    exact h.of_mode (m := m) (by rwa [State.withCpu_cpu, Cpu.writePhys_cpsr]) hr rfl rfl rfl
  | wroteSpsr v m e hr hm => exact h.of_mode (m := m) hm hr rfl rfl rfl
  | advanced n hr =>
    obtain ⟨m, hm⟩ := h.modeValid hr
    exact h.of_mode (m := m) hm hr rfl rfl rfl
  | reset => exact h.after_resetBlock
  | recomputed d hi hd => exact h.after_recompute hd

/-- Every step keeps the invariant. -/
theorem Inv.after_step {s t : State} (h : Inv s) (hs : step s = .next t) : Inv t := by
  have hrest : ∀ rest, Inv (s.withInput rest) := fun _ => h.congr rfl rfl rfl rfl rfl rfl rfl rfl
  obtain rfl | ⟨addr, b, rest, rfl⟩ | ⟨i, rest, hi⟩ := step_next hs
  · exact h
  · exact (hrest rest).after_pokeRam addr b
  · exact (hrest rest).after_effect (exec_effect hi)

/-! ## Registers that hold values (R24) -/

theorem isSome_get_set {f : RegFile} (h : ∀ g, (f.get g).isSome = true) (g : Gpr) (v : Word) :
    ∀ q, ((f.set g v).get q).isSome = true := by
  intro q
  rw [RegFile.get_set]
  split
  · rfl
  · exact h q

theorem isSome_getSpsr_set {f : SpsrFile} (h : ∀ e, (f.get e).isSome = true) (e : ExcMode) (v : Word) :
    ∀ q, ((f.set e v).get q).isSome = true := by
  intro q
  rw [SpsrFile.get_set]
  split
  · rfl
  · exact h q

theorem Held.after_writePhys {s : State} (h : Held s) (r : PhysReg) (v : Word) :
    Held (s.withCpu (s.cpu.writePhys r v)) := by
  cases r with
  | gpr g => exact ⟨isSome_get_set h.1 g v, h.2⟩
  | pc => exact h

theorem Held.after_enterException {s : State} (h : Held s) (k : Kind) : Held (enterException k s) :=
  ⟨isSome_get_set h.1 _ _, isSome_getSpsr_set h.2 _ _⟩

/-- The model's merge after a hook: a register that held a value still holds one (log 13). -/
theorem Held.after_hook {s : State} (h : Held s) (k : HookId) :
    (∀ g, ((hookExitCpu k s).regs.get g).isSome = true) ∧ ∀ e, ((hookExitCpu k s).spsr.get e).isSome = true := by
  refine ⟨fun g => ?_, fun e => ?_⟩
  · simp [hookExitCpu, h.1 g]
  · simp [hookExitCpu, h.2 e]

theorem Held.after_effect {i : Instr} {s t : State} (h : Held s) (he : Effect i s t) : Held t := by
  cases he with
  | returned | sampled | restored | wroteCpsr | setHle | setCoproc | setLine | advanced | recomputed | discarded
  | transferred | exchanged | pen => exact h
  | entered k | taken k => exact Held.after_enterException h k
  | swi => exact Held.after_enterException h .softwareInterrupt
  | reset => exact Held.after_enterException (s := resetPrepared s) h .reset
  | hooked imm8 k => exact Held.after_hook h k
  | wroteReg k v m => exact Held.after_writePhys h (view m k) v
  | wrotePhys r v => exact Held.after_writePhys h r v
  | wroteSpsr v m e => exact ⟨h.1, isSome_getSpsr_set h.2 e v⟩

theorem Held.after_step {s t : State} (h : Held s) (hs : step s = .next t) : Held t := by
  obtain rfl | ⟨addr, b, rest, rfl⟩ | ⟨i, rest, hi⟩ := step_next hs
  · exact h
  · exact h
  · exact Held.after_effect (s := s.withInput rest) h (exec_effect hi)

theorem Held.exec_ne_unwritten {s : State} (h : Held s) (i : Instr) (r : RegName) :
    exec i s ≠ .fault (.unwritten r) := by
  intro hf
  obtain ⟨p, -, hp⟩ | ⟨e, -, he⟩ := exec_unwritten hf
  · cases p with
    | gpr g => exact absurd (h.1 g) (by rw [show s.cpu.regs.get g = none from hp]; nofun)
    | pc => cases hp
  · exact absurd (h.2 e) (by rw [he]; nofun)

/-- Settles O7: each effect of an operation keeps the invariant, and keeps registers that hold values. -/
theorem stepKeepsTheInvariant : Obligations.StepKeepsTheInvariant := by
  refine ⟨fun _ _ h hs => h.after_step hs, fun _ _ h hs => Held.after_step h hs, fun s r h hf => ?_⟩
  obtain ⟨i, rest, hi⟩ := step_fault hf
  exact Held.exec_ne_unwritten (s := s.withInput rest) h i r hi

/-! ## Reset and power-on (10_state.md R40) -/

/-- The Reset entry forces the low eight bits to 0xD3: mode SVC, T clear, I and F set. -/
theorem entryPsr_reset (w : Word) : entryPsr .reset w = (w &&& 0xFFFFFF00) ||| 0xD3 := by
  apply BitVec.eq_of_getLsbD_eq
  intro j hj
  simp only [entryPsr, kindMasksFiq, psrSetF, psrSetI, psrSetM, psrClearT, modeCode, modeOfExc, kindMode, if_true,
    BitVec.getLsbD_or, BitVec.getLsbD_and]
  interval_cases j <;> simp

theorem exec_reset_powerOn (p : Params) (draw : Word) :
    exec .reset (State.powerOn p draw none) = .next (State.afterReset p draw) := by
  rw [exec_reset, State.afterReset, ← entryPsr_reset]
  rfl

/-- The registers and saved statuses that `Reset()` leaves with no value, given the value 0 one by one: each register by
name, each saved status from the mode that owns it, and then the status that `Reset()` left. -/
def zeroWrites : List Instr :=
  physRegs.dropLast.map (.writePhys · 0) ++
    ([0x11, 0x12, 0x17, 0x1B].flatMap fun v => [.writeCpsr v, .writeSpsr 0]) ++ [.writeCpsr 0xD3]

theorem runOps_zeroWrites : runOps zeroWrites (State.afterReset Params.suggested 0) = .next State.reset := rfl

/-- Settles O38: `Reset()` forces the status byte 0xD3, and `zeroWrites` leads from there to `State.reset`. -/
theorem resetFromPowerOnGivesTheResetState : Obligations.ResetFromPowerOnGivesTheResetState := by
  refine ⟨exec_reset_powerOn, zeroWrites, fun i hi => ?_, runOps_zeroWrites⟩
  rw [zeroWrites, List.mem_append, List.mem_append, List.mem_map, List.mem_flatMap, List.mem_singleton] at hi
  obtain (⟨r, -, rfl⟩ | ⟨v, -, hv⟩) | rfl := hi
  · exact .inl ⟨r, rfl⟩
  · obtain rfl | rfl := List.mem_pair.mp hv
    · exact .inr (.inr ⟨v, rfl⟩)
    · exact .inr (.inl rfl)
  · exact .inr (.inr ⟨_, rfl⟩)

theorem inv_powerOn {p : Params} (h : p.div.wf = true) (draw : Word) (c : Option CoprocId) :
    Inv (State.powerOn p draw c) where
  modeValid hr := by cases hr
  untouched _ := ⟨rfl, SpsrFile.get_filled none, rfl⟩
  divcntReserved := divcntReserved_zero
  divResults := .inl rfl
  ramForm := rfl
  paramsForm := h

theorem inv_afterReset {p : Params} (h : p.div.wf = true) (draw : Word) : Inv (State.afterReset p draw) :=
  (inv_powerOn h draw none).after_effect (exec_effect (exec_reset_powerOn p draw))

theorem inv_reset : Inv State.reset :=
  have hsuggested : Params.suggested.div.wf = true := by decide
  (inv_afterReset hsuggested 0).of_mode (m := .svc) (by decide) rfl rfl rfl rfl

theorem held_reset : Held State.reset :=
  ⟨fun g => by rw [State.reset, RegFile.get_filled]; rfl, fun e => by rw [State.reset, SpsrFile.get_filled]; rfl⟩

/-- Settles O8: the power-on state meets the invariant, `Reset()` keeps it, and the registers of `State.reset` are all
filled. -/
theorem resetAndPowerOnMeetTheInvariant : Obligations.ResetAndPowerOnMeetTheInvariant :=
  ⟨inv_reset, held_reset, fun _ draw h => inv_afterReset h draw, fun _ draw c h => inv_powerOn h draw c⟩

end Sys2Proof
end

section
/-! PROOFS. What the operations leave alone (20_memory.md R67, R73; 41_divisor.md R185; 42_touchscreen.md R230;
60_exceptions.md R301, R306; 70_reset_and_hazards.md R322, R336): each statement is read off the effects an operation
can have (`exec_effect`). -/

namespace Sys2Proof.Machine

/-! ## The classes of operations -/

theorem isCpuOp_of_dispatchedKind {i : Instr} {k : Kind} (h : dispatchedKind i = some k) :
    isCpuOp i = true := by
  cases i <;> first | rfl | cases h

theorem isCpuOp_of_swiImm {i : Instr} {imm8 : Byte} (h : swiImm i = some imm8) : isCpuOp i = true := by
  cases i <;> first | rfl | cases h

theorem not_isCpuOp_of_isDivisorOp {i : Instr} (h : isDivisorOp i = true) : ¬ isCpuOp i = true := by
  cases i <;> cases h <;> nofun

theorem not_isCpuOp_of_isTransferOp {i : Instr} (h : isTransferOp i = true) : ¬ isCpuOp i = true := by
  cases i <;> cases h <;> nofun

theorem not_isDivisorOp_of_isTransferOp {i : Instr} (h : isTransferOp i = true) : ¬ isDivisorOp i = true := by
  cases i <;> cases h <;> nofun

theorem isTransferOp_of_transferred {i : Instr} (h : i = .beginTransfer ∨ i = .endTransfer) :
    isTransferOp i = true := by
  obtain rfl | rfl := h <;> rfl

/-! ## The frame of each unit -/

section
variable {i : Instr} {s t : State} (he : Effect i s t)
include he

theorem Effect.frame_of_cpuOp (hcpu : isCpuOp i = true) :
    t = { s with cpu := t.cpu, reply := t.reply, nextFree := t.nextFree } := by
  cases he with
  | returned | entered | swi | hooked | sampled | taken | restored | wroteCpsr | wroteReg | wrotePhys | wroteSpsr
  | setHle | setCoproc | setLine | advanced | discarded => rfl
  | reset | pen => cases hcpu
  | recomputed d hi => exact absurd hcpu (not_isCpuOp_of_isDivisorOp hi)
  | transferred t hi => exact absurd hcpu (not_isCpuOp_of_isTransferOp (isTransferOp_of_transferred hi))
  | exchanged m hi => exact absurd hcpu (not_isCpuOp_of_isTransferOp hi)

theorem Effect.frame_of_divisorOp (hdiv : isDivisorOp i = true) : t = { s with div := t.div, reply := t.reply } := by
  cases he with
  | returned | recomputed | discarded => rfl
  | entered k hi => exact absurd (isCpuOp_of_dispatchedKind hi) (not_isCpuOp_of_isDivisorOp hdiv)
  | swi imm8 hi | hooked imm8 h m hi => exact absurd (isCpuOp_of_swiImm hi) (not_isCpuOp_of_isDivisorOp hdiv)
  | transferred t hi => exact absurd hdiv (not_isDivisorOp_of_isTransferOp (isTransferOp_of_transferred hi))
  | exchanged m hi => exact absurd hdiv (not_isDivisorOp_of_isTransferOp hi)
  | _ => cases hdiv

theorem Effect.frame_of_transferOp (hts : isTransferOp i = true) : t = { s with ts := t.ts, reply := t.reply } := by
  cases he with
  | returned | discarded | transferred | exchanged => rfl
  | entered k hi => exact absurd (isCpuOp_of_dispatchedKind hi) (not_isCpuOp_of_isTransferOp hts)
  | swi imm8 hi | hooked imm8 h m hi => exact absurd (isCpuOp_of_swiImm hi) (not_isCpuOp_of_isTransferOp hts)
  | recomputed d hi => exact absurd hi (not_isDivisorOp_of_isTransferOp hts)
  | _ => cases hts

/-- No operation without a hook changes a line but `SetLine` (R283). -/
theorem Effect.lines_eq (hset : ∀ l b, i ≠ .setLine l b)
    (hhook : ∀ imm8 : Byte, swiImm i = some imm8 → s.cpu.hle[imm8.toNat]'imm8.isLt = none) :
    t.cpu.lines = s.cpu.lines := by
  cases he with
  | setLine l b => exact absurd rfl (hset l b)
  | hooked imm8 h m hi hr hh => exact absurd ((hhook imm8 hi).symm.trans hh) nofun
  | wroteReg | wrotePhys => exact Cpu.writePhys_lines _ _ _
  | _ => rfl

/-- The ways in which `CPSR` can change (R301). -/
theorem Effect.cpsr_changed (hne : t.cpu.cpsr ≠ s.cpu.cpsr) :
    (∃ k, dispatchedKind i = some k) ∨ (∃ imm8, swiImm i = some imm8) ∨
    (i = .dispatchPoint ∧ ∃ k, t.reply = .taken k) ∨ i = .reset ∨ (∃ v, i = .writeCpsr v) ∨
    i = .restoreCpsrFromSpsr := by
  cases he with
  | entered k hi => exact .inl ⟨k, hi⟩
  | swi imm8 hi | hooked imm8 h m hi => exact .inr (.inl ⟨imm8, hi⟩)
  | taken k => exact .inr (.inr (.inl ⟨rfl, k, rfl⟩))
  | reset => exact .inr (.inr (.inr (.inl rfl)))
  | wroteCpsr v => exact .inr (.inr (.inr (.inr (.inl ⟨v, rfl⟩))))
  | restored => exact .inr (.inr (.inr (.inr (.inr rfl))))
  | wroteReg | wrotePhys => exact absurd (Cpu.writePhys_cpsr _ _ _) hne
  | _ => exact absurd rfl hne

theorem Effect.outside_eq : t.ram = s.ram ∧ t.input = s.input ∧ t.params = s.params := by
  cases he <;> exact ⟨rfl, rfl, rfl⟩

end

/-- Settles O35, from the effects of an operation. -/
theorem linesChangeOnlyBySetLine : Obligations.LinesChangeOnlyBySetLine := fun _ _ _ hset hhook h =>
  (exec_effect h).lines_eq hset hhook

/-- Settles O36, from the effects of an operation. -/
theorem modeChangesOnlyByTheThreeWays : Obligations.ModeChangesOnlyByTheThreeWays := fun _ _ _ h hne =>
  (exec_effect h).cpsr_changed hne

/-- Settles O57, unit by unit. -/
theorem unitsDoNotInterfere : Obligations.UnitsDoNotInterfere := fun _ _ _ h =>
  ⟨(exec_effect h).frame_of_divisorOp, (exec_effect h).frame_of_transferOp, (exec_effect h).frame_of_cpuOp⟩

/-- Settles O59: the memory is the same, so every address reads as before. -/
theorem noOperationWritesRam : Obligations.NoOperationWritesRam := by
  intro s t i h
  obtain ⟨hram, hinput, hparams⟩ := (exec_effect h).outside_eq
  exact ⟨fun a => congrArg (·.read a) hram, hram, hinput, hparams⟩

/-! ## Reads (R67, R73) -/

theorem exec_readOp_next {i : Instr} {s t : State} (hread : isReadOp i = true) (h : exec i s = .next t) :
    ∃ r, t = s.withReply r := by
  cases i <;> cases hread
  case busReadDivcnt.refl | busReadDivData.refl =>
    cases busAccess_next h
    exact ⟨_, rfl⟩
  all_goals
    cases exec_effect h with
    | returned r => exact ⟨r, rfl⟩
    | entered k hi | swi imm8 hi | hooked imm8 h m hi | recomputed d hi | discarded hi | exchanged m hi => cases hi
    | transferred t hi => cases isTransferOp_of_transferred hi

/-- A pure read does not see what the operation before it returned. -/
theorem exec_readOp_withReply {i : Instr} (hread : isReadOp i = true) (s : State) (r : Reply) :
    exec i (s.withReply r) = exec i s := by
  cases i <;> cases hread <;> rfl

/-- Settles O58: a read answers the old state with its reply, and reads the same there. -/
theorem readsHaveNoSideEffect : Obligations.ReadsHaveNoSideEffect := by
  intro s t i hread h
  obtain ⟨r, rfl⟩ := exec_readOp_next hread h
  exact ⟨rfl, (exec_readOp_withReply hread s r).trans h⟩

/-! ## The clock (R33, R140, R268, R336) -/

/-- What `CLOCK` is after operation `i` returned `r`, when it was `c` and no hook ran (R336). -/
def clockRule (i : Instr) (r : Reply) (c : DWord) : DWord :=
  if i = .reset then 3
  else if (dispatchedKind i).isSome = true ∨ (swiImm i).isSome = true ∨
      (i = .dispatchPoint ∧ (r = .taken .fiq ∨ r = .taken .irq)) then c + 3
  else match i with
    | .advanceClock n => c + n
    | _ => c

theorem clockRule_of_entry {i : Instr} (hi : (dispatchedKind i).isSome = true ∨ (swiImm i).isSome = true) (r : Reply)
    (c : DWord) : clockRule i r c = c + 3 := by
  have hne : i ≠ .reset := by
    rintro rfl
    obtain hi | hi := hi <;> cases hi
  unfold clockRule
  rw [if_neg hne, if_pos (or_assoc.mp (.inl hi))]

/-- Reads and the operations of the two peripherals take no CPU time. -/
theorem clockRule_of_quiet {i : Instr} (hi : isReadOp i = true ∨ isDivisorOp i = true ∨ isTransferOp i = true)
    (r : Reply) (c : DWord) : clockRule i r c = c := by
  obtain hi | hi | hi := hi <;> cases i <;> cases hi <;> rfl

theorem Effect.clock_eq {i : Instr} {s t : State} (he : Effect i s t)
    (hhook : ∀ imm8 : Byte, swiImm i = some imm8 → s.cpu.hle[imm8.toNat]'imm8.isLt = none) :
    t.cpu.clock = clockRule i t.reply s.cpu.clock := by
  cases he with
  | returned r hi => exact (clockRule_of_quiet (.inl hi) _ _).symm
  | entered k hi => exact (clockRule_of_entry (.inl (by rw [hi]; rfl)) _ _).symm
  | swi imm8 hi => exact (clockRule_of_entry (.inr (by rw [hi]; rfl)) _ _).symm
  | hooked imm8 h m hi hr hh => exact absurd ((hhook imm8 hi).symm.trans hh) nofun
  | sampled r hr hq => obtain rfl | rfl := hq <;> rfl
  | taken k hr hk => obtain rfl | rfl := hk <;> rfl
  | recomputed d hi | discarded hi => exact (clockRule_of_quiet (.inr (.inl hi)) _ _).symm
  | transferred t hi => exact (clockRule_of_quiet (.inr (.inr (isTransferOp_of_transferred hi))) _ _).symm
  | exchanged m hi => exact (clockRule_of_quiet (.inr (.inr hi)) _ _).symm
  | wroteReg | wrotePhys => exact Cpu.writePhys_clock _ _ _
  | _ => rfl

/-- Settles O60, effect by effect. -/
theorem clockMovesOnlyAsTheRulesSay : Obligations.ClockMovesOnlyAsTheRulesSay := fun _ _ _ h hhook =>
  (exec_effect h).clock_eq hhook

/-! ## Before the first `Reset()` (R322) -/

theorem busAccess_ne_beforeFirstReset (m : DivMap) (r : DivReg) (acc : BusAccess) (t : State) :
    busAccess m r acc (.next t) ≠ .refused .beforeFirstReset := by
  simp only [busAccess]
  repeat' split
  all_goals nofun

theorem exchangeByte_ne_beforeFirstReset (m : Byte) (s : State) :
    exchangeByte m s ≠ .refused .beforeFirstReset := by
  unfold exchangeByte
  split <;> nofun

theorem exec_cpuOp_refused {i : Instr} (hi : isCpuOp i = true) {s : State} (hr : s.wasReset = false) :
    exec i s = .refused .beforeFirstReset := by
  have hguard : ∀ k, afterFirstReset s k = .refused .beforeFirstReset := fun k => by simp [afterFirstReset, hr]
  cases i <;> first | exact hguard _ | cases hi

theorem isCpuOp_of_exec_refused {i : Instr} {s : State} (h : exec i s = .refused .beforeFirstReset) :
    isCpuOp i = true := by
  cases i
  case setSwiHle n hook =>
    by_cases hn : 0 ≤ n ∧ n ≤ 255
    · cases (exec_setSwiHle hn hook s).symm.trans h
    · cases (exec_setSwiHle_range (by omega) hook s).symm.trans h
  case setCoprocessor | setLine | reset | setPen => cases h
  case busWriteDivcnt | busWriteDivNumer | busWriteDivDenom | busWriteDivResult | busReadDivcnt | busReadDivData =>
    exact absurd h (busAccess_ne_beforeFirstReset _ _ _ _)
  case beginTransfer =>
    by_cases hts : s.ts = .closed
    · cases (exec_beginTransfer_closed hts).symm.trans h
    · cases (exec_beginTransfer_open hts).symm.trans h
  case endTransfer =>
    by_cases hts : s.ts = .closed
    · cases (exec_endTransfer_closed hts).symm.trans h
    · cases (exec_endTransfer_open hts).symm.trans h
  all_goals first | rfl | exact absurd h (exchangeByte_ne_beforeFirstReset _ _)

/-- Settles O19: the guard of R322 refuses each CPU operation, and no other operation has it. -/
theorem cpuOperationsWaitForTheFirstReset : Obligations.CpuOperationsWaitForTheFirstReset := fun _ _ hr =>
  ⟨isCpuOp_of_exec_refused, fun hi => exec_cpuOp_refused hi hr⟩

end Sys2Proof.Machine
end

section
/-! PROOFS. The CPU across several operations (10_state.md R21; 60_exceptions.md R264, R271, R280-R293): registers
seen from two modes, software interrupts, the wake from halt, the return from an exception, and preemption. -/

namespace Sys2Proof.Machine

/-! ## Which registers two modes share (R21) -/

/-- The number under which a physical register is visible, in the modes that see it. -/
def visibleIndex : PhysReg → BitVec 4
  | .gpr .r0 => 0
  | .gpr .r1 => 1
  | .gpr .r2 => 2
  | .gpr .r3 => 3
  | .gpr .r4 => 4
  | .gpr .r5 => 5
  | .gpr .r6 => 6
  | .gpr .r7 => 7
  | .gpr .r8usr | .gpr .r8fiq => 8
  | .gpr .r9usr | .gpr .r9fiq => 9
  | .gpr .r10usr | .gpr .r10fiq => 10
  | .gpr .r11usr | .gpr .r11fiq => 11
  | .gpr .r12usr | .gpr .r12fiq => 12
  | .gpr .r13usr | .gpr .r13fiq | .gpr .r13svc | .gpr .r13abt | .gpr .r13irq | .gpr .r13und => 13
  | .gpr .r14usr | .gpr .r14fiq | .gpr .r14svc | .gpr .r14abt | .gpr .r14irq | .gpr .r14und => 14
  | .pc => 15

theorem visibleIndex_view (m : Mode) (i : BitVec 4) : visibleIndex (view m i) = i := by
  revert i
  cases m <;> decide

/-- Whether modes `m` and `m2` see the same physical register as visible register `i`. -/
def SameBank (m m2 : Mode) (i : BitVec 4) : Prop :=
  i.toNat < 8 ∨ i.toNat = 15 ∨ (i.toNat < 13 ∧ (m = .fiq ↔ m2 = .fiq)) ∨ (13 ≤ i.toNat ∧ spsrOf m = spsrOf m2)

theorem view_eq_view_same (m m2 : Mode) (i : BitVec 4) : view m2 i = view m i ↔ SameBank m m2 i := by
  unfold SameBank
  revert i
  cases m <;> cases m2 <;> decide

theorem view_eq_view_iff (m m2 : Mode) (i j : BitVec 4) : view m2 j = view m i ↔ i = j ∧ SameBank m m2 i := by
  constructor
  · intro h
    obtain rfl : j = i := by rw [← visibleIndex_view m2 j, h, visibleIndex_view]
    exact ⟨rfl, (view_eq_view_same m m2 j).mp h⟩
  · rintro ⟨rfl, h⟩
    exact (view_eq_view_same m m2 i).mpr h

theorem Cpu.readPhys_setCpsr (c : Cpu) (w : Word) (r : PhysReg) :
    ({ c with cpsr := w } : Cpu).readPhys r = c.readPhys r := by
  cases r <;> rfl

theorem runOps_pair {i j : Instr} {s t u : State} (hi : exec i s = .next t) (hj : exec j t = .next u) :
    runOps [i, j] s = .next u :=
  (runOps_cons_of_next hi [j]).trans (runOps_cons_of_next hj [])

/-- Settles O11: after the switch the read goes through the second mode's view, which meets the first mode's exactly
where the two modes share the register (`view_eq_view_iff`). -/
theorem visibleRegistersFollowTheModesBank : Obligations.VisibleRegistersFollowTheModesBank := by
  intro s i j v w m m2 hr hm hw shared
  let s1 := s.withCpu (s.cpu.writePhys (view m i) v)
  let t := s1.withCpu { s1.cpu with cpsr := w }
  have hr1 : s1.wasReset = true := hr
  have hrt : t.wasReset = true := hr
  have hread : ∀ r, t.cpu.readPhys r = (s.cpu.writePhys (view m i) v).readPhys r := Cpu.readPhys_setCpsr _ w
  refine ⟨t, runOps_pair (exec_writeReg hr hm i v) (exec_writeCpsr hr1 hw), rfl, fun hshared => ?_,
    fun hother => ?_⟩
  · have hview : view m2 j = view m i := (view_eq_view_iff m m2 i j).mpr hshared
    refine (exec_readReg hrt hw j).trans (withValue_of_some _ _ ?_)
    rw [hread, hview, Cpu.readPhys_writePhys_same]
  · have hview : view m2 j ≠ view m i := fun h => hother ((view_eq_view_iff m m2 i j).mp h)
    have hkept : t.cpu.readPhys (view m2 j) = s.cpu.readPhys (view m2 j) :=
      (hread _).trans (Cpu.readPhys_writePhys_other _ _ hview)
    exact ⟨fun u hu => (exec_readReg hrt hw j).trans (withValue_of_some _ _ (hkept.trans hu)),
      fun hnone => (exec_readReg hrt hw j).trans (withValue_of_none _ _ (hkept.trans hnone))⟩

/-! ## Software interrupts (R263, R264, R271) -/

/-- The three forms of a software interrupt are one dispatch. -/
theorem exec_of_swiImm {i : Instr} {imm8 : Byte} (hi : swiImm i = some imm8) (s : State) :
    exec i s = dispatchSwi imm8 s := by
  cases i <;> cases hi <;> rfl

section
variable {s : State} {i : Instr} {imm8 : Byte} (hr : s.wasReset = true) (hi : swiImm i = some imm8)
include hr hi

theorem exec_swi_noHook (hh : s.cpu.hle[imm8.toNat]'imm8.isLt = none) :
    exec i s = .next (enterException .softwareInterrupt s) := by
  rw [exec_of_swiImm hi, dispatchSwi, afterFirstReset_true hr, hh]

theorem exec_swi_hook {h : HookId} (hh : s.cpu.hle[imm8.toNat]'imm8.isLt = some h) : exec i s = runHook h s := by
  rw [exec_of_swiImm hi, dispatchSwi, afterFirstReset_true hr, hh]

end

theorem runHook_of_valid {h : HookId} {s : State} {m : Mode} (hm : psrMode (hookExitCpu h s).cpsr = some m) :
    runHook h s = .next { s with cpu := hookExitCpu h s, nextFree := s.nextFree + 1, reply := .none } := by
  rw [runHook, hm]

theorem runHook_of_invalid {h : HookId} {s : State} (hm : psrMode (hookExitCpu h s).cpsr = none) :
    runHook h s = .fault (.badMode (hookExitCpu h s).cpsr) := by
  rw [runHook, hm]

/-- Settles O22, as the entry of its kind. -/
theorem swiTakesTheFullEntryWithNoHook : Obligations.SwiTakesTheFullEntryWithNoHook := fun s _ _ hr hi hh =>
  ⟨_, exec_swi_noHook hr hi hh, enterException_reply _ s, enterException_entered .softwareInterrupt s⟩

/-- Settles O23: the hook's path, by whether it leaves a valid mode. -/
theorem swiRunsItsHook : Obligations.SwiRunsItsHook := fun _ _ _ _ hr hi hh =>
  ⟨fun _ hm => (exec_swi_hook hr hi hh).trans (runHook_of_valid hm),
    fun hm => (exec_swi_hook hr hi hh).trans (runHook_of_invalid hm)⟩

/-! ## The wake from halt (R139, R281) -/

theorem Lines.has_change_same (ls : Lines) (l : Line) : (ls.change l true).has l = true := by
  cases l <;> rfl

/-- The state after `SetLine(l, b)` (R139). -/
def State.withLine (s : State) (l : Line) (b : Bool) : State :=
  s.withCpu
    { s.cpu with
      lines := s.cpu.lines.change l b
      recheck := s.cpu.recheck || (b && !s.cpu.lines.has l) }

theorem exec_setLine (l : Line) (b : Bool) (s : State) : exec (.setLine l b) s = .next (s.withLine l b) := rfl

/-- An interrupt that a dispatch point takes when HALT is clear: its line is asserted and its mask is clear. -/
def Takeable (c : Cpu) : Prop :=
  (c.lines.fiq = true ∧ psrF c.cpsr = false) ∨ (c.lines.irq = true ∧ psrI c.cpsr = false)

/-- With HALT clear a dispatch point is not halted, and takes an interrupt if there is one to take. -/
theorem exec_dispatchPoint_awake {s : State} (hr : s.wasReset = true) (hhalt : s.cpu.lines.halt = false) :
    ∃ u, exec .dispatchPoint s = .next u ∧ u.reply ≠ .halted ∧ (Takeable s.cpu → ∃ k, u.reply = .taken k) := by
  by_cases hfiq : s.cpu.lines.fiq = true ∧ psrF s.cpu.cpsr = false
  · exact ⟨_, exec_dispatchPoint_fiq hr hhalt hfiq, nofun, fun _ => ⟨.fiq, rfl⟩⟩
  by_cases hirq : s.cpu.lines.irq = true ∧ psrI s.cpu.cpsr = false
  · exact ⟨_, exec_dispatchPoint_irq hr hhalt hfiq hirq, nofun, fun _ => ⟨.irq, rfl⟩⟩
  · exact ⟨_, exec_dispatchPoint_run hr hhalt hfiq hirq, nofun, fun h => absurd h (not_or.mpr ⟨hfiq, hirq⟩)⟩

/-- Settles O31: the asserted line clears HALT, so the dispatch point is not halted. -/
theorem interruptLineWakesTheHaltedCore : Obligations.InterruptLineWakesTheHaltedCore := by
  intro s l hr _ hl
  have hset := exec_setLine l true s
  have hrt : (s.withLine l true).wasReset = true := hr
  have hhalt : (s.withLine l true).cpu.lines.halt = false :=
    (Lines.change_halt _ l true).trans ((if_neg hl).trans (if_pos rfl))
  have hline : (s.withLine l true).cpu.lines.has l = true := Lines.has_change_same _ l
  obtain ⟨u, hu, hawake, htaken⟩ := exec_dispatchPoint_awake hrt hhalt
  refine ⟨⟨_, u, hset, hhalt, hline, rfl, hu, hawake, fun hmask => htaken ?_⟩, fun hI hF => ?_⟩
  · cases l with
    | fiq => exact .inl ⟨hline, hmask⟩
    | irq => exact .inr ⟨hline, hmask⟩
    | halt => exact absurd rfl hl
  · have hrun := exec_dispatchPoint_run hrt hhalt (fun ⟨_, h⟩ => absurd (hF.symm.trans h) nofun)
      (fun ⟨_, h⟩ => absurd (hI.symm.trans h) nofun)
    exact ⟨_, runOps_pair hset hrun, rfl, hline, hhalt, rfl⟩

/-! ## The return from an exception (R291) -/

/-- After an entry of kind `kd` from a valid mode, `r14 - k` to `PC` and the saved status to `CPSR` resume at
the return address less `k`. -/
theorem entry_then_return {s : State} {m : Mode} (hr : s.wasReset = true) (hm : psrMode s.cpu.cpsr = some m)
    (kd : Kind) (k : Word) : ∃ u,
      exec (.readReg 14) (enterException kd s) =
        .next { enterException kd s with reply := .word (returnAddress kd s.cpu) } ∧
      runOps [.writeReg 15 (returnAddress kd s.cpu - k), .restoreCpsrFromSpsr] (enterException kd s) = .next u ∧
      u.cpu.cpsr = s.cpu.cpsr ∧ u.cpu.pc = returnAddress kd s.cpu - k := by
  have hentered := enterException_entered kd s
  have hrt : (enterException kd s).wasReset = true := hr
  have hmode : psrMode (enterException kd s).cpu.cpsr = some (modeOfExc (kindMode kd)) := entryPsr_mode kd _
  have hread : exec (.readReg 14) (enterException kd s) = _ := exec_readReg hrt hmode 14
  rw [view14_modeOfExc] at hread
  have hwrite := exec_writeReg hrt hmode 15 (returnAddress kd s.cpu - k)
  have hrestore := exec_restoreCpsrFromSpsr (s := (enterException kd s).withCpu
    ((enterException kd s).cpu.writePhys .pc (returnAddress kd s.cpu - k))) hrt hmode (spsrOf_modeOfExc _)
    hentered.saved hm
  exact ⟨_, hread.trans (withValue_of_some _ _ hentered.link), runOps_pair hwrite hrestore, rfl, rfl⟩

/-- In the spelling of the return sequences: the interrupted or aborted instruction is at distance 0. -/
theorem add_sub_self_eq_add_zero (w k : Word) : w + k - k = w + 0 := by
  rw [BitVec.add_sub_cancel]
  exact (BitVec.add_zero w).symm

/-- Settles O33: the return address of each kind less the sequence's offset (R95, R291). -/
theorem returnSequencesResume : Obligations.ReturnSequencesResume := by
  intro s m hr hm i k d h
  have hkind : ∃ kd, exec i s = .next (enterException kd s) ∧ returnAddress kd s.cpu - k = s.cpu.pc + d := by
    rcases h with hlist | ⟨rfl, rfl, imm8, hi, hh⟩
    · simp only [List.mem_cons, Prod.mk.injEq, List.not_mem_nil, or_false] at hlist
      obtain ⟨rfl, rfl, rfl⟩ | ⟨rfl, rfl, rfl⟩ | ⟨rfl, rfl, rfl⟩ | ⟨rfl, rfl, rfl⟩ | ⟨rfl, rfl, rfl⟩ := hlist
      · exact ⟨.undefined, exec_of_dispatchedKind hr rfl, BitVec.sub_zero _⟩
      · exact ⟨.prefetchAbort, exec_of_dispatchedKind hr rfl, add_sub_self_eq_add_zero _ 4⟩
      · exact ⟨.dataAbort, exec_of_dispatchedKind hr rfl, add_sub_self_eq_add_zero _ 8⟩
      · exact ⟨.irq, exec_of_dispatchedKind hr rfl, add_sub_self_eq_add_zero _ 4⟩
      · exact ⟨.fiq, exec_of_dispatchedKind hr rfl, add_sub_self_eq_add_zero _ 4⟩
    · exact ⟨.softwareInterrupt, exec_swi_noHook hr hi hh, BitVec.sub_zero _⟩
  obtain ⟨kd, hexec, hresume⟩ := hkind
  obtain ⟨u, hread, hrun, hcpsr, hpc⟩ := entry_then_return hr hm kd k
  exact ⟨_, u, _, hexec, hread, hrun, hcpsr, hpc.trans hresume⟩

/-! ## Preemption (R293) -/

/-- Settles O34: the entry sets I and keeps F, so after it only the FIQ is left to take. -/
theorem fiqPreemptsAnIrqHandler : Obligations.FiqPreemptsAnIrqHandler := by
  intro s hr hlines hI hF
  let s0 := s.withCpu { s.cpu with recheck := false }
  let t := (enterException .irq s0).withReply (.taken .irq)
  let u := (t.withCpu { t.cpu with recheck := false }).withReply .run
  let u' := u.withLine .fiq true
  let u0 := u'.withCpu { u'.cpu with recheck := false }
  let w := (enterException .fiq u0).withReply (.taken .fiq)
  have htirq : Entered .irq .r14irq (s.cpu.pc + 4) 0x18 false s0 t :=
    entered_withReply (enterException_entered .irq s0) (.taken .irq)
  have hwfiq : Entered .fiq .r14fiq (t.cpu.pc + 4) 0x1C true u0 w :=
    entered_withReply (enterException_entered .fiq u0) (.taken .fiq)
  have hmaskI : psrI t.cpu.cpsr = true := entryPsr_I .irq _
  have hmaskF : psrF t.cpu.cpsr = false := (entryPsr_F .irq _).trans hF
  have htlines : t.cpu.lines = { fiq := false, irq := true, halt := false } := hlines
  have hulines : u'.cpu.lines = { fiq := true, irq := true, halt := false } :=
    congrArg (·.change .fiq true) hlines
  have ht : exec .dispatchPoint s = .next t :=
    exec_dispatchPoint_irq hr (by rw [hlines]) (by rw [hlines]; nofun) ⟨by rw [hlines], hI⟩
  have hu : exec .dispatchPoint t = .next u :=
    exec_dispatchPoint_run hr (by rw [htlines]) (by rw [htlines]; nofun) (by rw [hmaskI]; nofun)
  have hw : exec .dispatchPoint u' = .next w :=
    exec_dispatchPoint_fiq hr (by rw [hulines]) ⟨by rw [hulines], hmaskF⟩
  exact ⟨t, u, w, ht, rfl, hu, rfl, runOps_pair (exec_setLine .fiq true u) hw, rfl, hwfiq.saved,
    hwfiq.link, (hwfiq.otherSpsr .irq (by decide)).trans htirq.saved,
    (hwfiq.otherReg .r14irq (by decide)).trans htirq.link⟩

end Sys2Proof.Machine
end

section
/-! PROOFS. The divisor behind the bus seam (20_memory.md R61-R67; 41_divisor.md R170-R175, R184, R186): the division
identity, the lanes of an access bit by bit, one equation per bus operation, and the statements assembled from them. -/

namespace Sys2Proof.Machine

/-! ## The division identity (R186) -/

/-- Truncating division: the identity, the bound, and a remainder of the numerator's sign. -/
theorem tdiv_identity (n : Int) {d : Int} (hd : d ≠ 0) :
    n = n.tdiv d * d + n.tmod d ∧ (n.tmod d).natAbs < d.natAbs ∧ (n.tmod d = 0 ∨ (n.tmod d).sign = n.sign) := by
  refine ⟨(Int.tdiv_mul_add_tmod n d).symm, ?_, ?_⟩
  · rw [Int.natAbs_tmod]
    exact Nat.mod_lt _ (Int.natAbs_pos.mpr hd)
  · by_cases hdvd : d ∣ n
    · exact .inl (Int.tmod_eq_zero_of_dvd hdvd)
    · exact .inr ((Int.sign_tmod n d).trans (if_neg hdvd))

/-- Settles O41, from the regular case of each width (`divideModeZero`, `divideModesOneToThree`). -/
theorem divisionIdentity : Obligations.DivisionIdentity := by
  intro mode numer denom n d q r hd hover
  have hregular : q = n.tdiv d ∧ r = n - n.tdiv d * d := by
    by_cases hmode : mode = 0
    · subst hmode
      obtain ⟨hq, hr, -⟩ := (divideModeZero numer denom).2.2 hd fun ⟨hneg, hmin⟩ =>
        hover ⟨hneg, congrArg BitVec.toInt hmin⟩
      exact ⟨hq, hr⟩
    · simp only [n, if_neg hmode] at hover ⊢
      exact (divideModesOneToThree mode numer denom hmode).2.2 hd fun ⟨hneg, hmin⟩ =>
        hover ⟨hneg, congrArg BitVec.toInt hmin⟩
  obtain ⟨hq, hr⟩ := hregular
  rw [hq, hr, Int.mul_comm, ← Int.tmod_def, Int.mul_comm]
  exact tdiv_identity n hd

/-! ## The lanes of an access (R64, R65) -/

theorem getLsbD_dataMask {n : Nat} (hn : n ≤ 8) (j : Nat) : (dataMask n).getLsbD j = decide (j < 8 * n) := by
  rw [dataMask, BitVec.getLsbD_ofNat, Nat.testBit_two_pow_sub_one, ← Bool.decide_and]
  exact decide_eq_decide.mpr (by omega)

theorem sizeBytes_le (z : AccessSize) : sizeBytes z ≤ 8 := by cases z <;> decide

theorem getLsbD_laneMask (acc : BusAccess) {j : Nat} (hj : j < 64) :
    (laneMask acc).getLsbD j = decide (8 * acc.disp.toNat ≤ j ∧ j < 8 * (acc.disp.toNat + sizeBytes acc.size)) := by
  rw [laneMask, BitVec.getLsbD_shiftLeft, getLsbD_dataMask (sizeBytes_le _), firstLane, ← decide_not,
    ← Bool.decide_and, ← Bool.decide_and]
  exact decide_eq_decide.mpr (by omega)

theorem getLsbD_laneData (acc : BusAccess) (v : DWord) {j : Nat} (hj : j < 64) (hlane : 8 * acc.disp.toNat ≤ j) :
    (laneData acc v).getLsbD j = v.getLsbD (j - 8 * acc.disp.toNat) := by
  rw [laneData, BitVec.getLsbD_shiftLeft, firstLane]
  simp [hj, hlane]

/-- A register without read-only bits after a write: the touched bytes are the data's, the others its own. -/
def writeLanes (acc : BusAccess) (v old : DWord) : DWord := busMerge old (romaskOf none) (laneMask acc) (laneData acc v)

theorem getLsbD_writeLanes (acc : BusAccess) (v old : DWord) {j : Nat} (hj : j < 64) :
    (writeLanes acc v old).getLsbD j =
      if 8 * acc.disp.toNat ≤ j ∧ j < 8 * (acc.disp.toNat + sizeBytes acc.size)
      then v.getLsbD (j - 8 * acc.disp.toNat) else old.getLsbD j := by
  rw [writeLanes, getLsbD_busMerge _ _ _ _ hj, getLsbD_laneMask acc hj]
  by_cases hlane : 8 * acc.disp.toNat ≤ j ∧ j < 8 * (acc.disp.toNat + sizeBytes acc.size)
  · simp [romaskOf, hlane, getLsbD_laneData acc v hj]
  · simp [hlane]

theorem bytesReplaced_writeLanes (acc : BusAccess) (v old : DWord) :
    BytesReplaced acc v old (writeLanes acc v old) := by
  intro j hj
  apply BitVec.eq_of_getLsbD_eq
  intro b hb
  rw [getLsbD_byteAt, getLsbD_writeLanes _ _ _ (by omega), apply_ite (BitVec.getLsbD · b), getLsbD_byteAt,
    getLsbD_byteAt]
  have hlane : (8 * acc.disp.toNat ≤ 8 * j + b ∧ 8 * j + b < 8 * (acc.disp.toNat + sizeBytes acc.size)) ↔
      (acc.disp.toNat ≤ j ∧ j < acc.disp.toNat + sizeBytes acc.size) := by omega
  simp only [hlane, hb]
  split
  · next h => rw [show 8 * j + b - 8 * acc.disp.toNat = 8 * (j - acc.disp.toNat) + b by omega]
  · rfl

theorem bytesRead_laneRead (acc : BusAccess) (val : DWord) : BytesRead acc val (laneRead acc val) := by
  intro j hj
  apply BitVec.eq_of_getLsbD_eq
  intro b hb
  have hlane : 8 * j + b < 8 * sizeBytes acc.size ↔ j < sizeBytes acc.size := by omega
  rw [getLsbD_byteAt, laneRead, BitVec.getLsbD_and, getLsbD_dataMask (sizeBytes_le _),
    BitVec.getLsbD_ushiftRight, firstLane, apply_ite (BitVec.getLsbD · b), getLsbD_byteAt]
  by_cases hj : j < sizeBytes acc.size
  · simp [hlane, hb, hj, Nat.mul_add, Nat.add_assoc]
  · simp [hlane, hj]

theorem writeLanes_idem (acc : BusAccess) (v old : DWord) :
    writeLanes acc v (writeLanes acc v old) = writeLanes acc v old := by
  apply BitVec.eq_of_getLsbD_eq
  intro j hj
  rw [getLsbD_writeLanes _ _ _ hj, getLsbD_writeLanes _ _ _ hj]
  split <;> rfl

theorem getLsbD_lowHalf (v : DWord) (j : Nat) :
    (v &&& 0xFFFFFFFF).getLsbD j = (v.getLsbD j && decide (j < 32)) := by
  have hmask : (0xFFFFFFFF : DWord) = dataMask 4 := by decide
  rw [BitVec.getLsbD_and, hmask, getLsbD_dataMask (by decide)]

/-- The accesses of R184's corner case: the low half, the high half, and the whole of a data register. -/
def lowHalf (bank : Int) : BusAccess := { bank := bank, disp := 0, size := .b4 }
def highHalf (bank : Int) : BusAccess := { bank := bank, disp := 4, size := .b4 }
def wholeReg (bank : Int) : BusAccess := { bank := bank, disp := 0, size := .b8 }

/-- The low half takes the data's low bits and keeps the register's high ones. -/
theorem writeLanes_lowHalf (bank : Int) (v old : DWord) {j : Nat} (hj : j < 64) :
    (writeLanes (lowHalf bank) (v &&& 0xFFFFFFFF) old).getLsbD j = if j < 32 then v.getLsbD j else old.getLsbD j := by
  rw [getLsbD_writeLanes _ _ _ hj, getLsbD_lowHalf]
  by_cases h : j < 32 <;> simp [lowHalf, sizeBytes, h]

theorem writeLanes_highHalf (bank : Int) (v old : DWord) {j : Nat} (hj : j < 64) :
    (writeLanes (highHalf bank) (v >>> 32) old).getLsbD j = if j < 32 then old.getLsbD j else v.getLsbD j := by
  rw [getLsbD_writeLanes _ _ _ hj, BitVec.getLsbD_ushiftRight]
  by_cases h : j < 32
  · simp [highHalf, sizeBytes, h, Nat.not_le.mpr h]
  · simp [highHalf, sizeBytes, h, hj, Nat.le_of_not_lt h]

/-- The whole register takes the data, and so do its halves in either order. -/
theorem writeLanes_whole (bank : Int) (v old : DWord) : writeLanes (wholeReg bank) v old = v := by
  apply BitVec.eq_of_getLsbD_eq
  intro j hj
  rw [getLsbD_writeLanes _ _ _ hj]
  simp [wholeReg, sizeBytes, hj]

theorem writeLanes_low_high (bank : Int) (v old : DWord) :
    writeLanes (highHalf bank) (v >>> 32) (writeLanes (lowHalf bank) (v &&& 0xFFFFFFFF) old) = v := by
  apply BitVec.eq_of_getLsbD_eq
  intro j hj
  rw [writeLanes_highHalf _ _ _ hj, writeLanes_lowHalf _ _ _ hj]
  split <;> rfl

theorem writeLanes_high_low (bank : Int) (v old : DWord) :
    writeLanes (lowHalf bank) (v &&& 0xFFFFFFFF) (writeLanes (highHalf bank) (v >>> 32) old) = v := by
  apply BitVec.eq_of_getLsbD_eq
  intro j hj
  rw [writeLanes_lowHalf _ _ _ hj, writeLanes_highHalf _ _ _ hj]
  split <;> rfl

theorem lanes_halves {m : DivMap} {r : DivReg} (hbytes : divBytes r = 8) (h8 : (m.offset r).toNat % 8 = 0) :
    Lanes m r (lowHalf m.bank) ∧ Lanes m r (highHalf m.bank) ∧ Lanes m r (wholeReg m.bank) := by
  have h0 : (0 : BitVec 32).toNat = 0 := rfl
  have h4 : (4 : BitVec 32).toNat = 4 := rfl
  simp only [Lanes, lowHalf, highHalf, wholeReg, sizeBytes, hbytes, h0, h4, true_and]
  omega

/-- R184's corner case for either data input: `wr` is its write, and `put` the state a write of it leaves. -/
theorem halves_make_the_whole {m : DivMap} {r : DivReg} (hbytes : divBytes r = 8)
    (h8 : (m.offset r).toNat % 8 = 0) {wr : BusAccess → DWord → Instr} {put : DWord → State} {s : State} {old : DWord}
    (hfirst : ∀ acc v, Lanes m r acc → exec (wr acc v) s = .next (put (writeLanes acc v old)))
    (hagain : ∀ acc v x, Lanes m r acc → exec (wr acc v) (put x) = .next (put (writeLanes acc v x))) (v : DWord) :
    ∃ t, runOps [wr (lowHalf m.bank) (v &&& 0xFFFFFFFF), wr (highHalf m.bank) (v >>> 32)] s = .next t ∧
      runOps [wr (highHalf m.bank) (v >>> 32), wr (lowHalf m.bank) (v &&& 0xFFFFFFFF)] s = .next t ∧
      exec (wr (wholeReg m.bank) v) s = .next t := by
  obtain ⟨hlow, hhigh, hwhole⟩ := lanes_halves hbytes h8
  refine ⟨put v, ?_, ?_, ?_⟩
  · rw [runOps_pair (hfirst _ _ hlow) (hagain _ _ _ hhigh), writeLanes_low_high]
  · rw [runOps_pair (hfirst _ _ hhigh) (hagain _ _ _ hlow), writeLanes_high_low]
  · rw [hfirst _ _ hwhole, writeLanes_whole]

/-! ## `DIVCNT` (R111, R170, R174) -/

/-- `DIVCNT` after a write: only its two MODE bits are writable. -/
def writeDivcnt (acc : BusAccess) (v : DWord) (old : BitVec 16) : BitVec 16 :=
  busMerge old divcntRomask ((laneMask acc).setWidth 16) ((laneData acc v).setWidth 16)

theorem getLsbD_writeDivcnt (acc : BusAccess) (v : DWord) (old : BitVec 16) {j : Nat} (hj : j < 16) :
    (writeDivcnt acc v old).getLsbD j =
      if j < 2 ∧ acc.disp.toNat = 0 then v.getLsbD j else old.getLsbD j := by
  have hwritable : ∀ j < 16, divcntRomask.getLsbD j = false ↔ j < 2 := by decide
  have hlane : j < 2 → ((8 * acc.disp.toNat ≤ j ∧ j < 8 * (acc.disp.toNat + sizeBytes acc.size)) ↔
      acc.disp.toNat = 0) := by
    have := sizeBytes_pos acc.size
    omega
  rw [writeDivcnt, getLsbD_busMerge _ _ _ _ hj, BitVec.getLsbD_setWidth, BitVec.getLsbD_setWidth,
    getLsbD_laneMask acc (by omega)]
  simp only [hwritable j hj]
  by_cases hmode : j < 2
  · by_cases hdisp : acc.disp.toNat = 0
    · rw [if_pos ⟨by simp only [hj, (hlane hmode).mpr hdisp]; rfl, hmode⟩, if_pos ⟨hmode, hdisp⟩,
        getLsbD_laneData acc v (by omega) (by omega)]
      simp [hj, hdisp]
    · simp [hmode, hlane hmode, hdisp]
  · simp [hmode]

theorem writeDivcnt_idem (acc : BusAccess) (v : DWord) (old : BitVec 16) :
    writeDivcnt acc v (writeDivcnt acc v old) = writeDivcnt acc v old := by
  apply BitVec.eq_of_getLsbD_eq
  intro j hj
  rw [getLsbD_writeDivcnt _ _ _ hj, getLsbD_writeDivcnt _ _ _ hj]
  split <;> rfl

/-- The computed `DIVCNT` in 64 bits: MODE, and bit 14 for a denominator of 0. -/
theorem setWidth_divcntRead (cnt : BitVec 16) (denom : DWord) :
    (divcntRead cnt denom).setWidth 64 = (cnt.setWidth 64 &&& 3) ||| if denom = 0 then (0x4000 : DWord) else 0 := by
  rw [divcntRead, div0Flag, BitVec.or_assoc, BitVec.setWidth_or, BitVec.setWidth_and]
  by_cases h : denom = 0
  · rw [if_pos h, beq_iff_eq.mpr h]
    rfl
  · rw [if_neg h, beq_eq_false_iff_ne.mpr h]
    rfl

/-! ## The bus operations (R170-R175) -/

/-- An input register written and the results recomputed (R176). -/
def State.withCnt (s : State) (x : BitVec 16) : State := s.withDiv ({ s.div with cnt := x } : Divisor).recompute
def State.withNumer (s : State) (x : DWord) : State := s.withDiv ({ s.div with numer := x } : Divisor).recompute
def State.withDenom (s : State) (x : DWord) : State := s.withDiv ({ s.div with denom := x } : Divisor).recompute

section
variable {s : State} {acc : BusAccess} (hm : s.params.div.wf = true)
include hm

theorem exec_busWriteDivcnt (hl : Lanes s.params.div .divcnt acc) (v : DWord) :
    exec (.busWriteDivcnt acc v) s = .next (s.withCnt (writeDivcnt acc v s.div.cnt)) :=
  busAccess_of_lanes _ hm hl

theorem exec_busWriteDivNumer (hl : Lanes s.params.div .numer acc) (v : DWord) :
    exec (.busWriteDivNumer acc v) s = .next (s.withNumer (writeLanes acc v s.div.numer)) :=
  busAccess_of_lanes _ hm hl

theorem exec_busWriteDivDenom (hl : Lanes s.params.div .denom acc) (v : DWord) :
    exec (.busWriteDivDenom acc v) s = .next (s.withDenom (writeLanes acc v s.div.denom)) :=
  busAccess_of_lanes _ hm hl

theorem exec_busWriteDivResult {reg : ResultReg} (hl : Lanes s.params.div (resultDivReg reg) acc) (v : DWord) :
    exec (.busWriteDivResult reg acc v) s = .next (s.withReply .none) := by
  refine (busAccess_of_lanes _ hm hl).trans ?_
  cases reg <;> simp only [resultDivReg, dataRomask, busMerge_readOnly] <;> rfl

theorem exec_busReadDivcnt (hl : Lanes s.params.div .divcnt acc) :
    exec (.busReadDivcnt acc) s =
      .next (s.withReply (.data (laneRead acc ((divcntRead s.div.cnt s.div.denom).setWidth 64)))) :=
  busAccess_of_lanes _ hm hl

theorem exec_busReadDivData {reg : DataReg} (hl : Lanes s.params.div (dataDivReg reg) acc) :
    exec (.busReadDivData reg acc) s = .next (s.withReply (.data (laneRead acc (s.div.data reg)))) :=
  busAccess_of_lanes _ hm hl

/-! Writing an input register again in the state a write of it left. -/

theorem exec_busWriteDivcnt_again (hl : Lanes s.params.div .divcnt acc) (v : DWord) (x : BitVec 16) :
    exec (.busWriteDivcnt acc v) (s.withCnt x) = .next (s.withCnt (writeDivcnt acc v x)) :=
  exec_busWriteDivcnt (s := s.withCnt x) hm hl v

theorem exec_busWriteDivNumer_again (hl : Lanes s.params.div .numer acc) (v x : DWord) :
    exec (.busWriteDivNumer acc v) (s.withNumer x) = .next (s.withNumer (writeLanes acc v x)) :=
  exec_busWriteDivNumer (s := s.withNumer x) hm hl v

theorem exec_busWriteDivDenom_again (hl : Lanes s.params.div .denom acc) (v x : DWord) :
    exec (.busWriteDivDenom acc v) (s.withDenom x) = .next (s.withDenom (writeLanes acc v x)) :=
  exec_busWriteDivDenom (s := s.withDenom x) hm hl v

end

/-- Every bus operation stated for a register goes through its checks. -/
theorem exec_busOps {r : DivReg} {acc : BusAccess} {v : DWord} {i : Instr} (hi : i ∈ busOps r acc v) (s : State) :
    ∃ k, exec i s = busAccess s.params.div r acc k := by
  cases r <;> obtain rfl | rfl := List.mem_pair.mp hi <;> exact ⟨_, rfl⟩

/-! ## The statements -/

/-- Settles O42: the written register bit by bit or byte by byte, and `recompute` for the results. -/
theorem inputWritesMergeAndRecompute : Obligations.InputWritesMergeAndRecompute := by
  intro s acc v hm
  exact ⟨fun hl => ⟨_, exec_busWriteDivcnt hm hl v, fun j hj => getLsbD_writeDivcnt acc v _ hj, rfl, rfl⟩,
    fun hl => ⟨_, exec_busWriteDivNumer hm hl v, bytesReplaced_writeLanes acc v _, rfl, rfl⟩,
    fun hl => ⟨_, exec_busWriteDivDenom hm hl v, bytesReplaced_writeLanes acc v _, rfl, rfl⟩⟩

/-- Settles O43: a result register has no writable bit, and the two checks of the seam come first. -/
theorem resultWritesChangeNothing : Obligations.ResultWritesChangeNothing := fun _ _ _ v hm =>
  ⟨fun hl => exec_busWriteDivResult hm hl v, fun h => busAccess_unmapped _ h,
    fun h ha => busAccess_misaligned _ h ha⟩

/-- Settles O44, as the lanes of the computed value (`setWidth_divcntRead`). -/
theorem divcntReadComputesItsFlags : Obligations.DivcntReadComputesItsFlags := by
  intro s acc hm hl
  refine ⟨_, exec_busReadDivcnt hm hl, ?_⟩
  rw [← setWidth_divcntRead]
  exact bytesRead_laneRead acc _

/-- Settles O45, as the lanes of the register's value. -/
theorem dataReadReturnsTheBytes : Obligations.DataReadReturnsTheBytes := by
  intro s reg acc hm hl
  refine ⟨_, exec_busReadDivData hm hl, ?_⟩
  cases reg <;> exact bytesRead_laneRead acc _

/-- Settles O46, by what the checks of the seam answer in each case. -/
theorem busFaultsUnmappedThenMisaligned : Obligations.BusFaultsUnmappedThenMisaligned := by
  intro s r acc v i hi a n
  obtain ⟨k, hk⟩ := exec_busOps hi s
  rw [hk]
  exact ⟨fun h => busAccess_unmapped k h, fun q h => ⟨fun ha => busAccess_misaligned k h ha,
    fun ha hq hm => busAccess_other k hm hq h ha⟩⟩

/-- Settles O47: a merge repeated is the merge once, and the merges of the two halves make the whole. -/
theorem repeatedAndSplitInputWritesAgree : Obligations.RepeatedAndSplitInputWritesAgree := by
  intro s hm
  refine ⟨fun acc v => ⟨fun hl => ⟨_, exec_busWriteDivcnt hm hl v, ?_⟩,
    fun hl => ⟨_, exec_busWriteDivNumer hm hl v, ?_⟩, fun hl => ⟨_, exec_busWriteDivDenom hm hl v, ?_⟩⟩,
    fun v => ⟨fun h8 => ?_, fun h8 => ?_⟩⟩
  · rw [exec_busWriteDivcnt_again hm hl, writeDivcnt_idem]
  · rw [exec_busWriteDivNumer_again hm hl, writeLanes_idem]
  · rw [exec_busWriteDivDenom_again hm hl, writeLanes_idem]
  · exact halves_make_the_whole (r := .numer) rfl h8 (fun _ v hl => exec_busWriteDivNumer hm hl v)
      (fun _ v x hl => exec_busWriteDivNumer_again hm hl v x) v
  · exact halves_make_the_whole (r := .denom) rfl h8 (fun _ v hl => exec_busWriteDivDenom hm hl v)
      (fun _ v x hl => exec_busWriteDivDenom_again hm hl v x) v

end Sys2Proof.Machine
end

section
/-! PROOFS. The touchscreen's bytes and conversions (30_encoding.md R113-R117; 42_touchscreen.md R211-R225): the bytes
of the SPI channel as exchanges, the calibration reads, and a conversion from its command to its second byte. -/

namespace Sys2Proof.Machine

/-! ## The bytes of the SPI channel as exchanges (R113, R211) -/

/-- An operation of the SPI channel is the exchange of the byte it is encoded as. -/
theorem exec_of_encode_tsc {i : Instr} {m : Byte} (hch : i.channel = .tsc) (henc : encode i = [m]) (s : State) :
    exec i s = exec (.exchange m) s := by
  cases i <;> cases hch <;> cases henc <;> rfl

theorem isTransferOp_of_channel_tsc {i : Instr} (hch : i.channel = .tsc) : isTransferOp i = true := by
  cases i <;> first | rfl | cases hch

/-- Settles O50: every byte is the encoding of the operation it is read as, which is its exchange. -/
theorem commandBytesAreTheirExchanges : Obligations.CommandBytesAreTheirExchanges := by
  intro m
  have hch := channel_decodeTscByte m
  have hexec := exec_of_encode_tsc hch (encode_decodeTscByte m)
  refine ⟨decodeTscByte m, rfl, isTransferOp_of_channel_tsc hch, fun s => ⟨hexec s, fun hopen => ?_⟩⟩
  exact ⟨_, _, (hexec s).trans (exchangeByte_open m hopen), rfl, rfl⟩

theorem cmdByte_fields : ∀ (c : BitVec 3) (m8 ref : Bool) (pd : BitVec 2),
    cmdStart (cmdByte c m8 ref pd) = true ∧ cmdChannel (cmdByte c m8 ref pd) = c ∧
      cmdMode8 (cmdByte c m8 ref pd) = m8 := by decide

theorem cmdStart_nonstartByte : ∀ x : BitVec 7, cmdStart (nonstartByte x) = false := by decide

section
variable {s : State} (hidle : s.ts = .idle)
include hidle

theorem exec_exchange_idle_start {m : Byte} (hm : cmdStart m = true) :
    exec (.exchange m) s =
      .next ((s.withTs (decodeCommand m s.pen s.params.cal s.ram)).withReply (.byte 0)) := by
  rw [exec_exchange_open hidle nofun, exchangeNext, if_pos hm, exchangeOut]

theorem exec_exchange_idle_nonstart {m : Byte} (hm : cmdStart m = false) :
    exec (.exchange m) s = .next (s.withReply (.byte 0)) := by
  rw [exec_exchange_open hidle nofun, exchangeNext, hm, exchangeOut]
  exact congrArg _ (State.withTs_withReply_of_eq hidle _)

theorem exec_exchange_idle_cmdByte (c : BitVec 3) (m8 ref : Bool) (pd : BitVec 2) :
    exec (.exchange (cmdByte c m8 ref pd)) s =
      .next ((s.withTs (.data1 (sample c s.pen (readCalibration s.params.cal s.ram)) m8)).withReply (.byte 0)) := by
  obtain ⟨hstart, hchan, hmode⟩ := cmdByte_fields c m8 ref pd
  rw [exec_exchange_idle_start hidle hstart, decodeCommand, hchan, hmode]

end

/-- Settles O51: each row is the exchange of its command byte. -/
theorem commandRowsStartTheirConversion : Obligations.CommandRowsStartTheirConversion := by
  intro s ig m8 ref pd hidle
  refine ⟨exec_exchange_idle_nonstart hidle (cmdStart_nonstartByte ig), fun p hp => ?_⟩
  simp only [List.mem_cons, List.not_mem_nil, or_false] at hp
  obtain rfl | rfl | rfl | rfl | rfl | rfl | rfl | rfl := hp
  all_goals exact exec_exchange_idle_cmdByte hidle _ m8 ref pd

/-! ## The calibration reads (R70, R71, R215) -/

theorem memRead2_cast (m : Memory) (a : BitVec 32) :
    (memRead2 m a : Int) = (m.read a.toNat).toNat + 256 * (m.read (a + 1).toNat).toNat := by
  rw [memRead2, Nat.cast_add, Nat.cast_mul]
  rfl

theorem memRead1_congr {m m' : Memory} {a : BitVec 32} (h : m.read a.toNat = m'.read a.toNat) :
    memRead1 m a = memRead1 m' a := congrArg BitVec.toNat h

theorem memRead2_congr {m m' : Memory} {a : BitVec 32} (h : m.read a.toNat = m'.read a.toNat)
    (h1 : m.read (a + 1).toNat = m'.read (a + 1).toNat) : memRead2 m a = memRead2 m' a := by
  rw [memRead2, memRead2, h, h1]

/-- Settles O54, field by field. -/
theorem calibrationIsReadLittleEndian : Obligations.CalibrationIsReadLittleEndian := by
  intro a m at8 at16
  refine ⟨⟨memRead2_cast m _, memRead2_cast m _, memRead2_cast m _, memRead2_cast m _, rfl, rfl, rfl, rfl⟩,
    fun m' h => ?_⟩
  simp only [List.forall_mem_cons] at h
  obtain ⟨hx1, hx1', hy1, hy1', hx2, hx2', hy2, hy2', hsx1, hsy1, hsx2, hsy2, -⟩ := h
  rw [readCalibration, readCalibration, memRead2_congr hx1 hx1', memRead2_congr hy1 hy1', memRead2_congr hx2 hx2',
    memRead2_congr hy2 hy2', memRead1_congr hsx1, memRead1_congr hsy1, memRead1_congr hsx2, memRead1_congr hsy2]

/-! ## A conversion (R116, R117, R214, R223-R225) -/

/-- In either framing the first byte is the sample's upper seven bits. -/
theorem toNat_byte1 (x : BitVec 12) (m8 : Bool) : (byte1 x m8).toNat = x.toNat / 32 := by
  have := x.isLt
  cases m8 <;> simp [byte1, BitVec.toNat_ushiftRight, Nat.shiftRight_eq_div_pow] <;> omega

theorem toNat_byte2_12bit (x : BitVec 12) : (byte2 x false).toNat = x.toNat % 32 * 8 := by
  have := x.isLt
  simp [byte2, BitVec.toNat_shiftLeft, Nat.shiftLeft_eq]
  omega

theorem toNat_byte2_8bit (x : BitVec 12) : (byte2 x true).toNat = x.toNat / 16 % 2 * 128 := by
  have := x.isLt
  simp [byte2, BitVec.toNat_ushiftRight, BitVec.toNat_shiftLeft, Nat.shiftLeft_eq, Nat.shiftRight_eq_div_pow,
    Nat.and_one_is_mod]
  omega

theorem byte1_bit7 (x : BitVec 12) (m8 : Bool) : (byte1 x m8).getLsbD 7 = false := by
  refine Nat.testBit_lt_two_pow ?_
  rw [toNat_byte1]
  have := x.isLt
  omega

/-- The two bytes, big-endian, hold the sample above 3 zero bits, or its upper 8 bits above 7. -/
theorem framing_12bit (x : BitVec 12) :
    ((byte1 x false).toNat * 256 + (byte2 x false).toNat) / 8 = x.toNat ∧ (byte2 x false).toNat % 8 = 0 := by
  rw [toNat_byte1, toNat_byte2_12bit]
  omega

theorem framing_8bit (x : BitVec 12) :
    ((byte1 x true).toNat * 256 + (byte2 x true).toNat) / 128 = x.toNat / 16 ∧ (byte2 x true).toNat % 128 = 0 := by
  rw [toNat_byte1, toNat_byte2_8bit]
  omega

/-- Settles O55: the sample stands in the transfer state from the command to the second byte, whatever the pen does. -/
theorem aConversionDeliversItsSample : Obligations.AConversionDeliversItsSample := by
  intro s m a b down x y hidle hstart smp
  have ht : exec (.exchange m) s = .next ((s.withTs (.data1 smp (m.getLsbD 3))).withReply (.byte 0)) :=
    exec_exchange_idle_start hidle hstart
  refine ⟨_, _, _, byte1 smp (m.getLsbD 3), byte2 smp (m.getLsbD 3), ht, rfl,
    runOps_pair (exec_setPen _ down x y) (exec_exchange_open (t := .data1 smp (m.getLsbD 3)) rfl nofun a), rfl,
    exec_exchange_open (t := .data2 smp (m.getLsbD 3)) rfl nofun b, rfl, byte1_bit7 _ _, fun hm => ?_, fun hm => ?_⟩
  · rw [hm]
    exact framing_12bit smp
  · rw [hm]
    exact framing_8bit smp

end Sys2Proof.Machine
end
